-- ==== Sys2Proof/Word.lean ====
section
/-! DEFINITION. The words of the KGS block and their plainest arithmetic (spec 00_scope R7). -/

namespace Sys2Proof

/-- A byte: 8 bits, unsigned (00_scope R7). -/
abbrev Byte := BitVec 8

/-- An event word of format EV: 11 bits (30_encoding R61). -/
abbrev EventWord := BitVec 11

/-- A signature window of format SIG: 32 bits, the oldest byte most significant (30_encoding R67). -/
abbrev Window := BitVec 32

end Sys2Proof
end

