-- ==== Sys2Proof/Machine/Calendar.lean ====
section
/-! DEFINITION. The calendar of the Magellan epoch correction (spec 43_magellan_decoder R136, R137). -/

namespace Sys2Proof.Machine

/-- The twelve months: DIM has no value for any other (43_magellan_decoder R138). -/
inductive Month where
  | jan | feb | mar | apr | may | jun | jul | aug | sep | oct | nov | dec
  deriving DecidableEq, Repr

/-- The month's number, 1..12. -/
def Month.number : Month → Nat
  | .jan => 1 | .feb => 2 | .mar => 3 | .apr => 4 | .may => 5 | .jun => 6
  | .jul => 7 | .aug => 8 | .sep => 9 | .oct => 10 | .nov => 11 | .dec => 12

/-- The month of a number in 1..12, none outside (43_magellan_decoder R135, R138). -/
def Month.ofNumber : Nat → Option Month
  | 1 => some .jan | 2 => some .feb | 3 => some .mar | 4 => some .apr | 5 => some .may | 6 => some .jun
  | 7 => some .jul | 8 => some .aug | 9 => some .sep | 10 => some .oct | 11 => some .nov | 12 => some .dec
  | _ => none

/-- The month after; after December comes January (43_magellan_decoder R137). -/
def Month.next : Month → Month
  | .jan => .feb | .feb => .mar | .mar => .apr | .apr => .may | .may => .jun | .jun => .jul
  | .jul => .aug | .aug => .sep | .sep => .oct | .oct => .nov | .nov => .dec | .dec => .jan

/-- LEAP(y) (43_magellan_decoder R136). -/
def leapYear (y : Nat) : Bool := (y % 4 == 0 && y % 100 != 0) || y % 400 == 0

/-- DIM(m, y), the number of days in a month (43_magellan_decoder R136). -/
def daysInMonth (m : Month) (y : Nat) : Nat :=
  match m with
  | .feb => if leapYear y then 29 else 28
  | .apr | .jun | .sep | .nov => 30
  | .jan | .mar | .may | .jul | .aug | .oct | .dec => 31

/-- The year of the month after `m` (43_magellan_decoder R137: "if m > 12 then m <- 1; y <- y + 1"). -/
def yearAfter (m : Month) (y : Nat) : Nat := if m = .dec then y + 1 else y

/-- The loop of NORMALISE, at most `fuel` passes (43_magellan_decoder R137). -/
def normaliseLoop (fuel d : Nat) (m : Month) (y : Nat) : Nat × Month × Nat :=
  match fuel with
  | 0 => (d, m, y)
  | fuel + 1 =>
    if d > daysInMonth m y then normaliseLoop fuel (d - daysInMonth m y) m.next (yearAfter m y) else (d, m, y)

/-- NORMALISE(d, m, y) (43_magellan_decoder R137). Every pass takes at least 28 days away, so `d` passes are never
used up before the loop's own test ends it. -/
def normalise (d : Nat) (m : Month) (y : Nat) : Nat × Month × Nat := normaliseLoop d d m y

end Sys2Proof.Machine
end

