-- ==== Sys2Proof/Config.lean ====
section
/-! DEFINITION. What an implementation of the KGS block fixes (spec 00_scope R5): the constants the spec states or
fixes by decision, as definitions, and the open parameters, as a record that every operation takes as an argument. -/

namespace Sys2Proof

/-- RB_SIZE, the ring capacity in bytes (00_scope R5, R6; the source's own 256). -/
abbrev ringSize : Nat := 256

/-- PKT_CAP, the scratch capacity in bytes (00_scope R5, decision D27). -/
abbrev pktCap : Nat := 21

/-- TB_LEN, the stored length of a Trimble frame (00_scope R5). -/
abbrev tbLen : Nat := 21

/-- MG_LEN_TIME, the length of a Magellan time packet (00_scope R5). -/
abbrev mgLenTime : Nat := 13

/-- MG_LEN_STATUS, the length of a Magellan status packet (00_scope R5). -/
abbrev mgLenStatus : Nat := 16

/-- YEAR_OFFSET, the Magellan epoch correction in years (00_scope R5). -/
abbrev yearOffset : Nat := 19

/-- DAY_OFFSET, the Magellan epoch correction in days (00_scope R5). -/
abbrev dayOffset : Nat := 229

/-- TB_REWIND (00_scope R5, decision D8); 41_synchronizer R105 leaves no other value for this window shape. -/
abbrev tbRewind : Byte := 2

/-- MG_REWIND (00_scope R5, decision D8); 41_synchronizer R105 leaves no other value for this window shape. -/
abbrev mgRewind : Byte := 2

/-- The open parameters of 00_scope R5, and the constants that 92_eei_decisions lists beside them as "fixed by decision
but easily made parameters". A scratch index is a `Fin pktCap`, so that no load leaves the scratch memory (20_memory
R42). The narrower bounds of 00_scope R6 are `Params.ok` in Sys2Proof/WellFormed.lean. (log 4, log 13) -/
structure Params where
  /-- DLE, the Trimble escape byte. -/
  dle : Byte
  /-- ETX, the second byte of the Trimble terminator. -/
  etx : Byte
  /-- TB_ID1, the byte after the leading DLE. -/
  tbId1 : Byte
  /-- TB_ID2, the byte after TB_ID1. -/
  tbId2 : Byte
  tbOffStatus : Fin pktCap
  tbOffSec : Fin pktCap
  tbOffMin : Fin pktCap
  tbOffHour : Fin pktCap
  tbOffDay : Fin pktCap
  tbOffMonth : Fin pktCap
  tbOffYearHi : Fin pktCap
  tbOffYearLo : Fin pktCap
  tbLockMask : Byte
  tbLockValue : Byte
  /-- MG_SYNC, the Magellan synchronisation character. -/
  mgSync : Byte
  /-- MG_T_TIME, the discriminator of the time packet. -/
  mgTTime : Byte
  /-- MG_T_STATUS, the discriminator of the status packet. -/
  mgTStatus : Byte
  /-- MG_LF, the Magellan line terminator. -/
  mgLf : Byte
  /-- MG_CSUM_START, the scratch index of the first byte in the checksum. -/
  mgCsumStart : Fin pktCap
  mtOffHour : Fin pktCap
  mtOffMin : Fin pktCap
  mtOffSec : Fin pktCap
  mtOffDay : Fin pktCap
  mtOffMonth : Fin pktCap
  mtOffYear : Fin pktCap
  /-- YEAR_BASE, added to the raw Magellan year. -/
  yearBase : Nat
  msOffLock : Fin pktCap
  msLockMask : Byte
  /-- SKIP_NOTICE_MIN: a resync is reported when more than this many bytes were skipped. -/
  skipNoticeMin : Nat
  /-- SILENCE_LIMIT: the link is lost when AGE exceeds this many ticks. -/
  silenceLimit : Nat
  deriving DecidableEq, Repr

/-- P0, the default parameter set (00_scope R5), which the spec's vectors use. Its byte values and offsets are the
spec's general knowledge, not its source's (93_implementation_defined, part 2). (log 22) -/
def P0 : Params where
  dle := 0x10
  etx := 0x03
  tbId1 := 0x8F
  tbId2 := 0xAB
  tbOffStatus := 11
  tbOffSec := 12
  tbOffMin := 13
  tbOffHour := 14
  tbOffDay := 15
  tbOffMonth := 16
  tbOffYearHi := 17
  tbOffYearLo := 18
  tbLockMask := 0xFF
  tbLockValue := 0x03
  mgSync := 0x24
  mgTTime := 0x41
  mgTStatus := 0x48
  mgLf := 0x0A
  mgCsumStart := 2
  mtOffHour := 4
  mtOffMin := 5
  mtOffSec := 6
  mtOffDay := 7
  mtOffMonth := 8
  mtOffYear := 9
  yearBase := 1900
  msOffLock := 3
  msLockMask := 0x01
  skipNoticeMin := 2
  silenceLimit := 62500

end Sys2Proof
end

