-- ==== Sys2Proof/Syntax.lean ====
section
/-! DEFINITION. The operations and signatures of the KGS block: one constructor for each row of
spec/opcode_table.json, and the two formats they are written in (spec 30_encoding R61, R67). -/

namespace Sys2Proof

/-- The three packet classes of 30_encoding R68. -/
inductive PacketClass where
  | magTime
  | magStatus
  | trimble
  deriving DecidableEq, Repr

/-- One row of spec/opcode_table.json each: the eight event-word rows (30_encoding R62) and the three signature rows
(30_encoding R68). -/
inductive Instr where
  /-- SCAN, op 0 (40_ring_buffer R93). -/
  | scan
  /-- POLL, op 1 (40_ring_buffer R92). -/
  | poll
  /-- CFG n, op 2: `n` is the new exposure length (45_countdown R166). -/
  | cfg (n : Byte)
  /-- TICK, op 3 (44_link_state R152). -/
  | tick
  /-- PPS, op 4 (45_countdown R167). -/
  | pps
  /-- RXB b, op 5: `b` is the received byte (40_ring_buffer R90). -/
  | rxb (b : Byte)
  /-- The reserved operation code 6 (30_encoding R63). -/
  | reserved6
  /-- RESET, op 7 (70_reset_and_hazards R210). -/
  | reset
  /-- The MAG_TIME signature; `w3` is the window's oldest byte, which the row does not test (30_encoding R68). -/
  | magTime (w3 : Byte)
  /-- The MAG_STATUS signature; `w3` is the window's oldest byte, which the row does not test (30_encoding R68). -/
  | magStatus (w3 : Byte)
  /-- The TRIMBLE signature; the row fixes all four bytes (30_encoding R68). -/
  | trimble
  deriving DecidableEq, Repr

/-- What a decoder is given: an event word (format EV, 30_encoding R61) or a signature window (format SIG, R67). -/
inductive Code where
  | ev (w : EventWord)
  | sig (w : Window)
  deriving DecidableEq, Repr

/-- The context that performs an operation (20_memory R48, 60_exceptions R198). (log 21) -/
inductive Context where
  /-- Interrupt context: RXB, TICK, PPS. -/
  | interrupt
  /-- Polling context: POLL, SCAN, and the signatures that SCAN recognises. -/
  | polling
  /-- The host's configuration: CFG. -/
  | config
  /-- RESET. -/
  | reset
  /-- The reserved code: no context performs anything. -/
  | none
  deriving DecidableEq, Repr

/-- Which context performs each operation (20_memory R48, 60_exceptions R198). -/
def Instr.context : Instr → Context
  | .scan => .polling
  | .poll => .polling
  | .cfg _ => .config
  | .tick => .interrupt
  | .pps => .interrupt
  | .rxb _ => .interrupt
  | .reserved6 => .none
  | .reset => .reset
  | .magTime _ => .polling
  | .magStatus _ => .polling
  | .trimble => .polling

end Sys2Proof
end

