-- ==== Sys2Proof/Machine/State.lean ====
section
/-! DEFINITION. The state of the KGS block as plain data (spec 10_state R10 to R35), with the three things that 10_state
R33 puts outside the block (the output trace, the input still to come, the parameter set), and the reset state. -/

namespace Sys2Proof.Machine

/-- A byte memory as a list of (address, byte) cells, in the canonical form of `Memory.wf` (Machine/Ops.lean): addresses
strictly rising, no cell equal to what an unlisted address reads as. (log 15) -/
abbrev Memory := List Host.Cell

/-- PTYPE, the classification tag of the packet in progress (10_state R17): UNKNOWN, or one of the three classes. -/
inductive PType where
  | unknown
  | known (c : PacketClass)
  deriving DecidableEq, Repr

/-- LINK, the GPS link state (10_state R23, 44_link_state R150); code 3 does not exist (30_encoding R65). -/
inductive Link where
  | unavailable
  | syncing
  | active
  deriving DecidableEq, Repr

/-- CD, the countdown state (10_state R25, 45_countdown R165); code 3 does not exist (30_encoding R65). -/
inductive Countdown where
  | syncing
  | enabled
  | triggered
  deriving DecidableEq, Repr

/-- A Timestamp: seven fields, unchecked (10_state R30). -/
structure Timestamp where
  hours : Byte
  minutes : Byte
  seconds : Byte
  day : Byte
  month : Byte
  /-- A full calendar year. -/
  year : BitVec 16
  /-- The lock-quality flag. -/
  locked : Bool
  deriving DecidableEq, Repr

/-- The Timestamp with every field 0 (10_state R31, R32, R35). -/
def Timestamp.zero : Timestamp where
  hours := 0
  minutes := 0
  seconds := 0
  day := 0
  month := 0
  year := 0
  locked := false

/-- The output events (30_encoding R80). -/
inductive OutEvent where
  | trigger
  | syncTs (ts : Timestamp)
  | status (ts : Timestamp) (link : Link)
  | linkLost
  | dbgSkip (n : Byte)
  | dbgMalformed (bytes : List Byte)
  | dbgChecksum (computed expected : Byte) (bytes : List Byte)
  | dbgMissedPulse
  deriving DecidableEq, Repr

/-- The state. The first twenty fields are the table of 10_state R10 in its order; the last three are the model's own
(10_state R33): no rule of the block reads the trace or the input, and no operation writes the parameters. -/
structure State where
  /-- BUF, the receive ring memory, 256 bytes (R11). -/
  buf : Memory
  /-- WR, the write cursor (R12). -/
  wr : Byte
  /-- RD, the read cursor (R13). -/
  rd : Byte
  /-- SNAP, the snapshot of WR (R14). -/
  snap : Byte
  /-- BUSY, a poll call is in progress (R15). -/
  busy : Bool
  /-- UPDATED, the poll call's result (R16). -/
  updated : Bool
  /-- PTYPE (R17). -/
  ptype : PType
  /-- PLEN, the number of bytes stored in PKT (R18). -/
  plen : BitVec 5
  /-- PKT, the packet scratch, 21 bytes (R19). -/
  pkt : Memory
  /-- ESC, a DLE is held (R21). -/
  esc : Bool
  /-- SKIP, the bytes skipped while unsynchronized (R22). -/
  skip : Byte
  /-- LINK (R23). -/
  link : Link
  /-- AGE, ticks since the last received byte (R24). -/
  age : BitVec 16
  /-- CD (R25). -/
  cd : Countdown
  /-- EXPLEN, the exposure length in seconds (R26). -/
  explen : Byte
  /-- REMAINING, the down-counter (R27). -/
  remaining : Byte
  /-- RECORD_SYNC, the next Timestamp is to be latched (R28). -/
  recordSync : Bool
  /-- MAG_LOCKED, the recorded Magellan lock state (R29). -/
  magLocked : Bool
  /-- CUR_TS, current GPS time (R31). -/
  curTs : Timestamp
  /-- SYNC_TS, the sync time (R32). -/
  syncTs : Timestamp
  /-- The parameter set, constant (R33, 00_scope R5). (log 4) -/
  params : Params
  /-- The event words presented and not yet performed, the next one first (R33, 70 R225). (log 1) -/
  input : List EventWord
  /-- The output events emitted so far, the oldest first (R33, 30_encoding R80). (log 3) -/
  trace : List OutEvent
  deriving DecidableEq, Repr

/-- Why the machine stops. The block itself has no trap (60_exceptions R185). -/
inductive Fault where
  /-- A SCAN step would store at a scratch index above 20, an address 20_memory R42 says a store cannot have. Raised by
  the decoder steps only, in states that break the invariant of 10_state R34. Safe: the model stops where the spec
  gives no effect. (log 9) -/
  | scratchIndex
  deriving DecidableEq, Repr

/-- Why an instruction has no meaning. -/
inductive Refusal where
  /-- The instruction is not modelled yet. Raised by exec's arms only; no arm does. Safe. -/
  | notModelled (mnemonic : String)
  deriving DecidableEq, Repr

/-- The state after RESET: every element at the value of 10_state R35 (log 14); nothing presented, nothing emitted, and the
default parameter set P0 (log 1, log 3, log 4). -/
def State.reset : State where
  buf := []
  wr := 0
  rd := 0
  snap := 0
  busy := false
  updated := false
  ptype := .unknown
  plen := 0
  pkt := []
  esc := false
  skip := 0
  link := .unavailable
  age := 0
  cd := .syncing
  explen := 0
  remaining := 0
  recordSync := false
  magLocked := false
  curTs := .zero
  syncTs := .zero
  params := P0
  input := []
  trace := []

end Sys2Proof.Machine
end

