-- ==== Sys2Proof/Machine/Flags.lean ====
section
/-! DEFINITION. Every test and saturation of the rules: the lock predicates, the skip notice, the silence test, the
alignment test and the month of a raw byte (spec 30_encoding R72, R74, 41_synchronizer R106, 44_link_state R152,
45_countdown R170). -/

namespace Sys2Proof.Machine

/-- sat255(v) = min(v, 255) (00_scope R7). -/
def sat255 (v : Nat) : Byte := BitVec.ofNat 8 (min v 255)

/-- The Trimble lock predicate: (status and MASK) = VALUE (30_encoding R72). -/
def trimbleLocked (P : Params) (status : Byte) : Bool := status &&& P.tbLockMask == P.tbLockValue

/-- The Magellan lock bit: (byte and MASK) != 0 (30_encoding R74). -/
def statusLocked (P : Params) (b : Byte) : Bool := b &&& P.msLockMask != 0

/-- SKIP > SKIP_NOTICE_MIN, strictly (41_synchronizer R104, R106). -/
def skipNoticed (P : Params) (skip : Byte) : Bool := skip.toNat > P.skipNoticeMin

/-- AGE > SILENCE_LIMIT, strictly (44_link_state R152). -/
def silent (P : Params) (age : BitVec 16) : Bool := age.toNat > P.silenceLimit

/-- seconds mod EXPLEN = 0, unsigned; asked only with EXPLEN != 0 (45_countdown R169, R170). -/
def aligned (seconds explen : Byte) : Bool := seconds.toNat % explen.toNat == 0

end Sys2Proof.Machine
end

