-- ==== Sys2Proof/WellFormed.lean ====
section
/-! DEFINITION. Well-formed parameter sets (spec 00_scope R6, 42_trimble_decoder R120) and well-formed instructions: a
signature row that no earlier row of the classifier hides (spec 30_encoding R68, 41_synchronizer R102). -/

namespace Sys2Proof

/-- The Trimble offsets lie in 3..18 (42_trimble_decoder R120). -/
abbrev Params.trimbleOffsetsOk (P : Params) : Prop :=
  ∀ o ∈ [P.tbOffStatus, P.tbOffSec, P.tbOffMin, P.tbOffHour, P.tbOffDay, P.tbOffMonth, P.tbOffYearHi, P.tbOffYearLo],
    3 ≤ o.val ∧ o.val ≤ 18

/-- The offsets of the Magellan time packet are less than its length (00_scope R6). -/
abbrev Params.timeOffsetsOk (P : Params) : Prop :=
  ∀ o ∈ [P.mtOffHour, P.mtOffMin, P.mtOffSec, P.mtOffDay, P.mtOffMonth, P.mtOffYear], o.val < mgLenTime

/-- The offset of the lock byte is less than the status packet's length (00_scope R6). -/
abbrev Params.statusOffsetOk (P : Params) : Prop := P.msOffLock.val < mgLenStatus

/-- MG_CSUM_START is at most MG_LEN_TIME - 2 (00_scope R6). -/
abbrev Params.checksumStartOk (P : Params) : Prop := P.mgCsumStart.val ≤ mgLenTime - 2

/-- SILENCE_LIMIT is at most 65000, so that AGE never overflows 16 bits (00_scope R6). -/
abbrev Params.silenceLimitOk (P : Params) : Prop := P.silenceLimit ≤ 65000

/-- What 00_scope R6 asks of a parameter set (its other clauses are about constants of Sys2Proof/Config.lean). -/
abbrev Params.ok (P : Params) : Prop :=
  P.trimbleOffsetsOk ∧ P.timeOffsetsOk ∧ P.statusOffsetOk ∧ P.checksumStartOk ∧ P.silenceLimitOk

/-- No earlier row of the classifier matches the windows of this instruction's row, so that its signature selects its
own class (30_encoding R68: "Rows are tried in the order shown and the first that matches wins"). Event words and the
first signature row are always well-formed: their operands are bytes of the right width by type. -/
abbrev Instr.WellFormed (P : Params) : Instr → Prop
  | .scan => True
  | .poll => True
  | .cfg _ => True
  | .tick => True
  | .pps => True
  | .rxb _ => True
  | .reserved6 => True
  | .reset => True
  | .magTime _ => True
  | .magStatus _ => P.mgTStatus ≠ P.mgTTime
  | .trimble => ¬ (P.dle = P.mgSync ∧ P.tbId1 = P.mgSync ∧ (P.tbId2 = P.mgTTime ∨ P.tbId2 = P.mgTStatus))

end Sys2Proof
end

