-- ==== Sys2Proof/Decode.lean ====
section
/-! DEFINITION. The two decoders of the KGS block, total on any word: event words (spec 30_encoding R61 to R64) and
signature windows (spec 30_encoding R67 to R69, 41_synchronizer R102); after them the encoder and the tables. -/

namespace Sys2Proof

/-- Four bytes as a window, oldest first: `b3 ++ b2 ++ b1 ++ b0` (30_encoding R67). -/
def Window.ofBytes (b3 b2 b1 b0 : Byte) : Window := (b3 ++ b2 ++ b1 ++ b0 : BitVec (8 + 8 + 8 + 8)).cast (by decide)

/-- Byte `k` of a window: byte 0 is the newest, `W[7:0]`, byte 3 the oldest, `W[31:24]`. -/
def Window.byte (w : Window) (k : Fin 4) : Byte := w.extractLsb' (8 * k.val) 8

/-- Why a decoder answers no instruction. -/
inductive Reject where
  /-- The window matches no row of 30_encoding R68 (R69): the byte under the cursor is no end of a signature. -/
  | noClass
  deriving DecidableEq, Repr

/-- The field `op`, EV[10:8] (30_encoding R61). -/
def opField (w : EventWord) : BitVec 3 := w.extractLsb' 8 3

/-- The field `arg`, EV[7:0] (30_encoding R61). -/
def argField (w : EventWord) : Byte := w.extractLsb' 0 8

/-- The operation an event word selects (30_encoding R62); total, R63; `arg` is ignored where there is no operand, R64.
Three bits have eight values: the last branch is `op` = 7. -/
def decodeEvent (w : EventWord) : Instr :=
  if opField w = 0 then .scan
  else if opField w = 1 then .poll
  else if opField w = 2 then .cfg (argField w)
  else if opField w = 3 then .tick
  else if opField w = 4 then .pps
  else if opField w = 5 then .rxb (argField w)
  else if opField w = 6 then .reserved6
  else .reset

/-- CLASSIFY(W): the first matching row, in the order MAG_TIME, MAG_STATUS, TRIMBLE (41_synchronizer R102). -/
def classify (P : Params) (w : Window) : Option PacketClass :=
  if w.byte 2 = P.mgSync ∧ w.byte 1 = P.mgSync ∧ w.byte 0 = P.mgTTime then some .magTime
  else if w.byte 2 = P.mgSync ∧ w.byte 1 = P.mgSync ∧ w.byte 0 = P.mgTStatus then some .magStatus
  else if w.byte 3 = P.etx ∧ w.byte 2 = P.dle ∧ w.byte 1 = P.tbId1 ∧ w.byte 0 = P.tbId2 then some .trimble
  else none

/-- The signature row of a class, with the window's untested oldest byte as its operand (30_encoding R68). -/
def signatureOf (c : PacketClass) (w3 : Byte) : Instr :=
  match c with
  | .magTime => .magTime w3
  | .magStatus => .magStatus w3
  | .trimble => .trimble

/-- The signature a window selects, or the rejection of 30_encoding R69. -/
def decodeWindow (P : Params) (w : Window) : Except Reject Instr :=
  match classify P w with
  | some c => .ok (signatureOf c (w.byte 3))
  | none => .error .noClass

/-- The decoder: an event word by its operation code, a window by its signature. -/
def decode (P : Params) : Code → Except Reject Instr
  | .ev w => .ok (decodeEvent w)
  | .sig w => decodeWindow P w

/-- An event word from its two fields (30_encoding R61). -/
def eventWord (op : BitVec 3) (arg : Byte) : EventWord := (op ++ arg : BitVec (3 + 8)).cast (by decide)

/-- The encoder: an operation's event word, `arg` 0 where there is no operand (30_encoding R62, R64), or a signature's
window (30_encoding R68). -/
def encode (P : Params) : Instr → Code
  | .scan => .ev (eventWord 0 0)
  | .poll => .ev (eventWord 1 0)
  | .cfg n => .ev (eventWord 2 n)
  | .tick => .ev (eventWord 3 0)
  | .pps => .ev (eventWord 4 0)
  | .rxb b => .ev (eventWord 5 b)
  | .reserved6 => .ev (eventWord 6 0)
  | .reset => .ev (eventWord 7 0)
  | .magTime w3 => .sig (Window.ofBytes w3 P.mgSync P.mgSync P.mgTTime)
  | .magStatus w3 => .sig (Window.ofBytes w3 P.mgSync P.mgSync P.mgTStatus)
  | .trimble => .sig (Window.ofBytes P.etx P.dle P.tbId1 P.tbId2)

/-- One row of the opcode table: its mnemonic and the words it covers, `word &&& mask = value`. -/
structure TableRow (n : Nat) where
  mnemonic : String
  mask : BitVec n
  value : BitVec n
  deriving DecidableEq, Repr

/-- The event-word rows as the table has them (30_encoding R62). -/
def eventRows : List (TableRow 11) :=
  [⟨"SCAN", 0x700, 0x000⟩, ⟨"POLL", 0x700, 0x100⟩, ⟨"CFG", 0x700, 0x200⟩, ⟨"TICK", 0x700, 0x300⟩,
   ⟨"PPS", 0x700, 0x400⟩, ⟨"RXB", 0x700, 0x500⟩, ⟨"RESERVED6", 0x700, 0x600⟩, ⟨"RESET", 0x700, 0x700⟩]

/-- The signature rows as the table has them, in the order they are tried, at P0 (30_encoding R68). -/
def signatureRows : List (TableRow 32) :=
  [⟨"MAG_TIME", 0x00FFFFFF, 0x00242441⟩, ⟨"MAG_STATUS", 0x00FFFFFF, 0x00242448⟩,
   ⟨"TRIMBLE", 0xFFFFFFFF, 0x03108FAB⟩]

/-- The mnemonic of the row a constructor stands for. -/
def Instr.mnemonic : Instr → String
  | .scan => "SCAN"
  | .poll => "POLL"
  | .cfg _ => "CFG"
  | .tick => "TICK"
  | .pps => "PPS"
  | .rxb _ => "RXB"
  | .reserved6 => "RESERVED6"
  | .reset => "RESET"
  | .magTime _ => "MAG_TIME"
  | .magStatus _ => "MAG_STATUS"
  | .trimble => "TRIMBLE"

/-- The row of the opcode table that covers a code at P0: the first that matches. -/
def rowOf : Code → Option String
  | .ev w => (eventRows.find? fun r => w &&& r.mask == r.value).map (·.mnemonic)
  | .sig w => (signatureRows.find? fun r => w &&& r.mask == r.value).map (·.mnemonic)

/-- The instruction of a table word of `nbits` bits, numbered as spec/opcode_table.json numbers them: up to two bytes
hold an event word (its 11 bits, the bits above them 0), up to four bytes a signature window at P0. (log 8) -/
def decodeTableWord (nbits w : Nat) : Option Instr :=
  if nbits ≤ 16 then
    if w < 2 ^ 11 then some (decodeEvent (BitVec.ofNat 11 w)) else none
  else if nbits ≤ 32 then
    if w < 2 ^ 32 then (decodeWindow P0 (BitVec.ofNat 32 w)).toOption else none
  else none

end Sys2Proof
end

