-- ==== Sys2Proof/Machine/Ops.lean ====
section
/-! DEFINITION. The named operations over the two memories, the cursors, the trace and the input, and the two
sub-actions every decoder ends with (spec 20_memory, 40_ring_buffer R95, R96). The block has no exception to take and none
to return from (spec 60_exceptions R185, R197): an error is `emit` of its event beside an ordinary update. -/

namespace Sys2Proof.Machine

/-- What an operation answers. -/
abbrev Result := Host.Outcome State Fault Refusal

/-- What a cell never written since RESET reads as (10_state R11, R19, R35, decision D26). -/
def unlisted : Byte := 0

/-- The byte at an address: a load has no side effect (20_memory R45, R46). -/
def Memory.read (m : Memory) (a : Nat) : Byte :=
  match m with
  | [] => unlisted
  | c :: t => if c.1 = a then c.2 else Memory.read t a

/-- The memory with nothing listed at an address. -/
def Memory.erase (m : Memory) (a : Nat) : Memory := m.filter fun c => c.1 != a

/-- A cell put before the first cell of a higher address. -/
def Memory.insert (m : Memory) (a : Nat) (v : Byte) : Memory :=
  match m with
  | [] => [(a, v)]
  | c :: t => if c.1 < a then c :: Memory.insert t a v else (a, v) :: c :: t

/-- Stores one byte; storing what an unlisted address reads as removes the cell, so that the form stays canonical. -/
def Memory.write (m : Memory) (a : Nat) (v : Byte) : Memory :=
  if v = unlisted then m.erase a else (m.erase a).insert a v

/-- The canonical form: addresses strictly rising, all below the memory's size, no cell equal to an unlisted one. -/
abbrev Memory.wf (size : Nat) (m : Memory) : Prop :=
  m.Pairwise (fun c d => c.1 < d.1) ∧ ∀ c ∈ m, c.1 < size ∧ c.2 ≠ unlisted

/-- `emit E(args)`: appends an output event to the trace (00_scope R8). -/
def emit (e : OutEvent) (s : State) : State := { s with trace := s.trace ++ [e] }

/-- BUF[i] (20_memory R41: every 8-bit index names a cell). -/
def readRing (s : State) (i : Byte) : Byte := s.buf.read i.toNat

/-- BUF[i] <- v (20_memory R41). -/
def writeRing (i v : Byte) (s : State) : State := { s with buf := s.buf.write i.toNat v }

/-- PKT[i] (20_memory R42). -/
def readPkt (s : State) (i : Fin pktCap) : Byte := s.pkt.read i.val

/-- PKT[0 .. n-1], oldest first, as the debug events carry it (30_encoding R80). -/
def pktBytes (s : State) (n : Nat) : List Byte := (List.range n).map fun i => s.pkt.read i

/-- `PKT[PLEN] <- v; PLEN <- PLEN + 1` (42_trimble_decoder R117, 43_magellan_decoder R131); none where PLEN names no cell
of the scratch memory (20_memory R42). (log 9) -/
def storePkt (v : Byte) (s : State) : Option State :=
  if s.plen.toNat < pktCap then some { s with pkt := s.pkt.write s.plen.toNat v, plen := s.plen + 1 } else none

/-- RD <- (RD + 1) mod 256 (10_state R13). -/
def advanceRd (s : State) : State := { s with rd := s.rd + 1 }

/-- PKT_RESET (40_ring_buffer R96). -/
def pktReset (s : State) : State := { s with ptype := .unknown, plen := 0, esc := false }

/-- END_POLL (40_ring_buffer R95). -/
def endPoll (s : State) : State :=
  if s.updated then emit (.status s.curTs s.link) { s with busy := false } else { s with busy := false }

/-- The next operation presented, and the state without it; none when nothing is presented (70_reset_and_hazards
R225). -/
def fetchEvent (s : State) : Option (EventWord × State) :=
  match s.input with
  | [] => none
  | w :: rest => some (w, { s with input := rest })

/-- The environment presents an operation as the next one (70_reset_and_hazards R226). -/
def presentNext (w : EventWord) (s : State) : State := { s with input := w :: s.input }

/-- A window laid where the synchronizer's next step reads it (41_synchronizer R101, R102): its four bytes in the ring,
the newest under RD; a poll call in progress whose slice holds that one byte; no packet in progress. (log 7) -/
def placeWindow (w : Window) (s : State) : State :=
  let s := writeRing (s.rd - 3) (w.byte 3) s
  let s := writeRing (s.rd - 2) (w.byte 2) s
  let s := writeRing (s.rd - 1) (w.byte 1) s
  let s := writeRing s.rd (w.byte 0) s
  { s with busy := true, snap := s.rd + 1, ptype := .unknown }

end Sys2Proof.Machine
end

