-- ==== Sys2Proof/Machine/Operands.lean ====
section
/-! DEFINITION. Every operand form: the signature window, the frame lengths, the checksum, and the Timestamps assembled
from a complete frame (spec 30_encoding R67, R68, R72 to R76, 42_trimble_decoder R119, 43_magellan_decoder R133, R135). -/

namespace Sys2Proof.Machine

/-- The window W: the byte under the read cursor and the three behind it, as they stand (41_synchronizer R101,
20_memory R54). -/
def window (s : State) : Window :=
  Window.ofBytes (readRing s (s.rd - 3)) (readRing s (s.rd - 2)) (readRing s (s.rd - 1)) (readRing s s.rd)

/-- LEN of a class (10_state R18, 30_encoding R68, R77). -/
def frameLen : PacketClass → Nat
  | .magTime => mgLenTime
  | .magStatus => mgLenStatus
  | .trimble => tbLen

/-- How far a match moves RD back (30_encoding R68). -/
def rewind : PacketClass → Byte
  | .magTime => mgRewind
  | .magStatus => mgRewind
  | .trimble => tbRewind

/-- The checksum of a Magellan packet of length `n`: the XOR of PKT[MG_CSUM_START] to PKT[n - 3] (30_encoding R75,
43_magellan_decoder R133). -/
def checksum (s : State) (n : Nat) : Byte :=
  ((List.range (n - 2)).filter fun i => s.params.mgCsumStart.val ≤ i).foldl (fun c i => c ^^^ s.pkt.read i) 0

/-- The Timestamp of a complete Trimble frame (42_trimble_decoder R119, 30_encoding R72, 20_memory R43). -/
def trimbleTimestamp (s : State) : Timestamp where
  hours := readPkt s s.params.tbOffHour
  minutes := readPkt s s.params.tbOffMin
  seconds := readPkt s s.params.tbOffSec
  day := readPkt s s.params.tbOffDay
  month := readPkt s s.params.tbOffMonth
  year := BitVec.ofNat 16 ((readPkt s s.params.tbOffYearHi).toNat * 256 + (readPkt s s.params.tbOffYearLo).toNat)
  locked := trimbleLocked s.params (readPkt s s.params.tbOffStatus)

/-- The corrected date of a complete Magellan time packet, given its month (43_magellan_decoder R135, 30_encoding R76):
the sums are exact, so that the day sum does not wrap at 256. -/
def magellanDate (s : State) (m : Month) : Nat × Month × Nat :=
  normalise ((readPkt s s.params.mtOffDay).toNat + dayOffset) m
    ((readPkt s s.params.mtOffYear).toNat + s.params.yearBase + yearOffset)

/-- The Timestamp of a complete Magellan time packet; none when the raw month is outside 1..12
(43_magellan_decoder R135, R138). The year is narrowed to its 16-bit field. (log 11) -/
def magellanTimestamp (s : State) : Option Timestamp :=
  match Month.ofNumber (readPkt s s.params.mtOffMonth).toNat with
  | none => none
  | some m =>
    some {
      hours := readPkt s s.params.mtOffHour
      minutes := readPkt s s.params.mtOffMin
      seconds := readPkt s s.params.mtOffSec
      day := BitVec.ofNat 8 (magellanDate s m).1
      month := BitVec.ofNat 8 (magellanDate s m).2.1.number
      year := BitVec.ofNat 16 (magellanDate s m).2.2
      locked := s.magLocked }

end Sys2Proof.Machine
end

