-- ==== Sys2Proof/Machine/Countdown.lean ====
section
/-! DEFINITION. The exposure countdown synchronizer: CFG, PPS, and the countdown's part in accepting a Timestamp (spec
45_countdown R165 to R176). -/

namespace Sys2Proof.Machine

/-- COUNTDOWN_STEP (45_countdown R168). REMAINING is at least 1 on entry in every reachable state (R176); an 8-bit
register wraps otherwise. (log 10) -/
def countdownStep (s : State) : State :=
  if s.remaining - 1 = 0 then emit .trigger { s with remaining := s.explen, recordSync := true }
  else { s with remaining := s.remaining - 1 }

/-- MISSED_PULSE (45_countdown R171): CD stays ENABLED. -/
def missedPulse (s : State) : State := countdownStep (emit .dbgMissedPulse s)

/-- CD_ON_TS(ts) (45_countdown R170). -/
def cdOnTs (ts : Timestamp) (s : State) : State :=
  if s.explen ≠ 0 then
    match s.cd with
    | .triggered => { s with cd := .enabled }
    | .enabled => missedPulse s
    | .syncing => if aligned ts.seconds s.explen then { s with cd := .enabled } else s
  else s

/-- LATCH_SYNC (45_countdown R172): CUR_TS, written before (20_memory R52), is latched and reported. -/
def latchSync (s : State) : State :=
  if s.recordSync then emit (.syncTs s.curTs) { s with syncTs := s.curTs, recordSync := false } else s

/-- CFG n (45_countdown R166). -/
def execCfg (n : Byte) (s : State) : Result := .next { s with explen := n, remaining := n, cd := .syncing }

/-- PPS (45_countdown R167). -/
def execPps (s : State) : Result :=
  .next (if s.explen ≠ 0 ∧ s.link = .active ∧ s.cd ≠ .syncing then { countdownStep s with cd := .triggered } else s)

end Sys2Proof.Machine
end

