-- ==== Sys2Proof/Machine/LinkState.lean ====
section
/-! DEFINITION. The GPS link state machine: the link's part in RXB, TICK, and timestamp acceptance (spec 44_link_state R150
to R157). -/

namespace Sys2Proof.Machine

/-- RX_LINK (44_link_state R151). -/
def rxLink (s : State) : State :=
  { s with age := 0, link := if s.link = .unavailable then .syncing else s.link }

/-- TICK (44_link_state R152). The 16-bit sum does not overflow in a reachable state of a parameter set that meets
00_scope R6 (R153). (log 10) -/
def execTick (s : State) : Result :=
  .next (
    if s.link ≠ .unavailable then
      if silent s.params (s.age + 1) then emit .linkLost { s with age := s.age + 1, link := .unavailable }
      else { s with age := s.age + 1 }
    else s)

/-- ACCEPT_TS(ts) (44_link_state R155): CUR_TS and LINK, then the countdown handshake, then the latch, then UPDATED. -/
def acceptTs (ts : Timestamp) (s : State) : State :=
  { latchSync (cdOnTs ts { s with curTs := ts, link := .active }) with updated := true }

end Sys2Proof.Machine
end

