-- ==== Sys2Proof/Machine/RingBuffer.lean ====
section
/-! DEFINITION. The receive ring buffer: RXB and POLL (spec 40_ring_buffer R90 to R92). -/

namespace Sys2Proof.Machine

/-- RXB b (40_ring_buffer R90). It never reads RD: overrun is not detected (R97). -/
def execRxb (b : Byte) (s : State) : Result :=
  .next (rxLink { writeRing s.wr b s with wr := s.wr + 1 })

/-- POLL (40_ring_buffer R92): no step while BUSY = 1. (log 5) -/
def execPoll (s : State) : Result :=
  .next (if s.busy then s else { s with snap := s.wr, busy := true, updated := false })

end Sys2Proof.Machine
end

