-- ==== Sys2Proof/Machine/MagellanDecoder.lean ====
section
/-! DEFINITION. The Magellan decoder: accumulation, validation, and the two packet variants (spec 43_magellan_decoder R130
to R139). -/

namespace Sys2Proof.Machine

/-- MG_STATUS_ACCEPT (43_magellan_decoder R134): edge-triggered; not a timestamp event. -/
def mgStatusAccept (s : State) : State :=
  let l := statusLocked s.params (readPkt s s.params.msOffLock)
  if l = s.magLocked then s else { s with magLocked := l, curTs := { s.curTs with locked := l }, updated := true }

/-- MG_TIME_ACCEPT (43_magellan_decoder R135), and the raw month out of range (R138: DBG_MALFORMED and nothing else).
(log 12) -/
def mgTimeAccept (s : State) : State :=
  match magellanTimestamp s with
  | none => emit (.dbgMalformed (pktBytes s mgLenTime)) s
  | some ts => acceptTs ts s

/-- MG_FINISH (43_magellan_decoder R132) for a packet of class `c`: the terminator first, then the checksum. -/
def mgFinish (c : PacketClass) (s : State) : State :=
  let n := frameLen c
  endPoll (pktReset (
    if s.pkt.read (n - 1) ≠ s.params.mgLf then emit (.dbgMalformed (pktBytes s n)) s
    else if checksum s n ≠ s.pkt.read (n - 2) then
      emit (.dbgChecksum (checksum s n) (s.pkt.read (n - 2)) (pktBytes s n)) s
    else if c = .magStatus then mgStatusAccept s
    else mgTimeAccept s))

/-- The Magellan decoder's step (43_magellan_decoder R131) for a packet of class `c`. -/
def magellanStep (c : PacketClass) (s : State) : Result :=
  match storePkt (readRing s s.rd) (advanceRd s) with
  | none => .fault .scratchIndex
  | some t => .next (if t.plen.toNat = frameLen c then mgFinish c t else t)

end Sys2Proof.Machine
end

