-- ==== Sys2Proof/Machine/Synchronizer.lean ====
section
/-! DEFINITION. The packet synchronizer: its step, and the meaning of the three signatures it recognises (spec
41_synchronizer R100 to R110). -/

namespace Sys2Proof.Machine

/-- No match: skip the byte (41_synchronizer R103). -/
def skipByte (s : State) : State := { advanceRd s with skip := sat255 (s.skip.toNat + 1) }

/-- Match: report, rewind, classify (41_synchronizer R104). -/
def recognise (c : PacketClass) (s : State) : State :=
  { (if skipNoticed s.params s.skip then emit (.dbgSkip s.skip) s else s) with
    skip := 0, rd := s.rd - rewind c, ptype := .known c, plen := 0, esc := false }

/-- The synchronizer's step (41_synchronizer R102). -/
def syncStep (s : State) : State :=
  match classify s.params (window s) with
  | none => skipByte s
  | some c => recognise c s

/-- The condition of the synchronizer's step: BUSY = 1, RD is not SNAP, PTYPE = UNKNOWN (41_synchronizer R102). -/
abbrev synchronizing (s : State) : Prop := s.busy = true ∧ s.rd ≠ s.snap ∧ s.ptype = .unknown

/-- The MAG_TIME signature (30_encoding R68, 41_synchronizer R104): the window's oldest byte is not tested. Where the
synchronizer does not run, there is no step. (log 6) -/
def execMagTime (_w3 : Byte) (s : State) : Result :=
  .next (if synchronizing s then recognise .magTime s else s)

/-- The MAG_STATUS signature (30_encoding R68, 41_synchronizer R104). (log 6) -/
def execMagStatus (_w3 : Byte) (s : State) : Result :=
  .next (if synchronizing s then recognise .magStatus s else s)

/-- The TRIMBLE signature (30_encoding R68, 41_synchronizer R104). (log 6) -/
def execTrimble (s : State) : Result :=
  .next (if synchronizing s then recognise .trimble s else s)

end Sys2Proof.Machine
end

