-- ==== Sys2Proof/Machine/TrimbleDecoder.lean ====
section
/-! DEFINITION. The Trimble decoder: the unstuffing scanner and the completion of a frame (spec 42_trimble_decoder R115 to
R122). -/

namespace Sys2Proof.Machine

/-- The terminator check: PKT[TB_LEN - 2] = DLE and PKT[TB_LEN - 1] = ETX (42_trimble_decoder R118). -/
def trimbleTerminated (s : State) : Bool :=
  s.pkt.read (tbLen - 2) == s.params.dle && s.pkt.read (tbLen - 1) == s.params.etx

/-- TB_FINISH (42_trimble_decoder R118). -/
def tbFinish (s : State) : State :=
  endPoll (pktReset
    (if trimbleTerminated s then acceptTs (trimbleTimestamp s) s else emit (.dbgMalformed (pktBytes s tbLen)) s))

/-- STORE_TB(v) (42_trimble_decoder R117): the state after the store and whether the store completed the frame; none
where the store has no cell. (log 9) -/
def storeTb (v : Byte) (s : State) : Option (State × Bool) :=
  match storePkt v s with
  | none => none
  | some t => if t.plen.toNat = tbLen then some (tbFinish t, true) else some (t, false)

/-- The outcome of a step whose last action is a store. -/
def storeResult : Option (State × Bool) → Result
  | none => .fault .scratchIndex
  | some (t, _) => .next t

/-- The Trimble decoder's step (42_trimble_decoder R116). -/
def trimbleStep (s : State) : Result :=
  let b := readRing s s.rd
  if s.esc then
    if b = s.params.dle then storeResult (storeTb s.params.dle (advanceRd { s with esc := false }))
    else
      match storeTb s.params.dle { s with esc := false } with
      | none => .fault .scratchIndex
      | some (t, true) => .next t
      | some (t, false) => storeResult (storeTb b (advanceRd t))
  else if b = s.params.dle then .next { advanceRd s with esc := true }
  else storeResult (storeTb b (advanceRd s))

end Sys2Proof.Machine
end

