-- ==== Sys2Proof/Machine/Scan.lean ====
section
/-! DEFINITION. SCAN: the scanner's dispatch (spec 40_ring_buffer R93, R94). -/

namespace Sys2Proof.Machine

/-- SCAN (40_ring_buffer R93): no step while BUSY = 0 (log 5); drained first (R94), then the synchronizer
(41_synchronizer R102), the Trimble decoder (42_trimble_decoder R116) or the Magellan decoder (43_magellan_decoder
R131). -/
def execScan (s : State) : Result :=
  if s.busy then
    if s.rd = s.snap then .next (endPoll s)
    else
      match s.ptype with
      | .unknown => .next (syncStep s)
      | .known .trimble => trimbleStep s
      | .known .magTime => magellanStep .magTime s
      | .known .magStatus => magellanStep .magStatus s
  else .next s

end Sys2Proof.Machine
end

