-- ==== Sys2Proof/Machine/System.lean ====
section
/-! DEFINITION. RESET and the reserved operation code (spec 70_reset_and_hazards R210, 30_encoding R63). -/

namespace Sys2Proof.Machine

/-- RESET (70_reset_and_hazards R210): every element of 10_state R10 at its value of R35; the trace is not cleared and
the input and the parameters are not the block's (10_state R33). -/
def execReset (s : State) : Result :=
  .next { State.reset with params := s.params, input := s.input, trace := s.trace }

/-- Operation code 6 (30_encoding R63): the state does not change and nothing is emitted. -/
def execReserved6 (s : State) : Result := .next s

end Sys2Proof.Machine
end

