-- ==== Sys2Proof/Machine/Dispatch.lean ====
section
/-! DEFINITION. The dispatch: one arm for each row of spec/opcode_table.json. -/

namespace Sys2Proof.Machine

/-- The meaning of every instruction. -/
def exec (i : Instr) (s : State) : Host.Outcome State Fault Refusal :=
  match i with
  | .scan => Sys2Proof.Machine.execScan s
  | .poll => Sys2Proof.Machine.execPoll s
  | .cfg n => Sys2Proof.Machine.execCfg n s
  | .tick => Sys2Proof.Machine.execTick s
  | .pps => Sys2Proof.Machine.execPps s
  | .rxb b => Sys2Proof.Machine.execRxb b s
  | .reserved6 => Sys2Proof.Machine.execReserved6 s
  | .reset => Sys2Proof.Machine.execReset s
  | .magTime w3 => Sys2Proof.Machine.execMagTime w3 s
  | .magStatus w3 => Sys2Proof.Machine.execMagStatus w3 s
  | .trimble => Sys2Proof.Machine.execTrimble s

end Sys2Proof.Machine
end

