-- ==== Sys2Proof/Machine/Step.lean ====
section
/-! DEFINITION. One step: the next operation the environment has presented, performed whole (spec 20_memory R49,
70_reset_and_hazards R225). -/

namespace Sys2Proof.Machine

/-- One step: the next event word, decoded and performed. With no operation presented the block holds its state: it never
stops of itself (70_reset_and_hazards R225, 60_exceptions R202). (log 2) -/
def step (s : State) : Host.Outcome State Fault Refusal :=
  match fetchEvent s with
  | none => .next s
  | some (w, t) => exec (decodeEvent w) t

/-- The state with a table word where the next step fetches it (the host's fixed name): an event word is presented as the
next operation; a signature's window is laid under the read cursor and the SCAN that reads it is presented. (log 1,
log 7) -/
def State.withFetchWord (s : State) (nbits w : Nat) : State :=
  if nbits ≤ 16 then presentNext (BitVec.ofNat 11 w) s
  else presentNext (eventWord 0 0) (placeWindow (BitVec.ofNat 32 w) s)

end Sys2Proof.Machine
end

