-- ==== Sys2Proof/Machine/Ports.lean ====
section
/-! DEFINITION. The ports of the block: input strobes and their order, output levels, the packed Timestamp word, the codes
of the enumerated registers, the output event codes and the error kinds (spec 30_encoding R60, R65, R66, R81,
60_exceptions R188, R190). -/

namespace Sys2Proof.Machine

/-- The code of PTYPE (30_encoding R65). -/
def PType.code : PType → BitVec 2
  | .unknown => 0
  | .known .magTime => 1
  | .known .magStatus => 2
  | .known .trimble => 3

/-- The code of LINK (30_encoding R65); code 3 is never produced. -/
def Link.code : Link → BitVec 2
  | .unavailable => 0
  | .syncing => 1
  | .active => 2

/-- The code of CD (30_encoding R65); code 3 is never produced. -/
def Countdown.code : Countdown → BitVec 2
  | .syncing => 0
  | .enabled => 1
  | .triggered => 2

/-- The packed Timestamp word, 57 bits, hours in the top byte and `locked` in bit 0 (30_encoding R66). -/
def Timestamp.pack (t : Timestamp) : BitVec 57 :=
  (t.hours ++ t.minutes ++ t.seconds ++ t.day ++ t.month ++ t.year ++ BitVec.ofBool t.locked :
    BitVec (8 + 8 + 8 + 8 + 8 + 16 + 1)).cast (by decide)

/-- The Timestamp of a packed word (30_encoding R66). -/
def Timestamp.unpack (w : BitVec 57) : Timestamp where
  hours := w.extractLsb' 49 8
  minutes := w.extractLsb' 41 8
  seconds := w.extractLsb' 33 8
  day := w.extractLsb' 25 8
  month := w.extractLsb' 17 8
  year := w.extractLsb' 1 16
  locked := w.getLsbD 0

/-- The input strobes of one instant (30_encoding R60). -/
structure Inputs where
  rst : Bool
  /-- CFG_STB with CFG_DATA. -/
  cfg : Option Byte
  /-- RX_STB with RX_DATA. -/
  rx : Option Byte
  pps : Bool
  tick : Bool
  poll : Bool
  step : Bool
  deriving DecidableEq, Repr

/-- No strobe. -/
def Inputs.idle : Inputs where
  rst := false
  cfg := none
  rx := none
  pps := false
  tick := false
  poll := false
  step := false

/-- The operations that strobes arriving together deliver, in the order the block performs them: RESET, RXB, PPS, TICK,
CFG, POLL, SCAN (60_exceptions R188). The input list itself may hold any order. (log 16) -/
def Inputs.operations (p : Inputs) : List Instr :=
  (if p.rst then [.reset] else []) ++ (p.rx.map .rxb).toList ++ (if p.pps then [.pps] else []) ++
    (if p.tick then [.tick] else []) ++ (p.cfg.map .cfg).toList ++ (if p.poll then [.poll] else []) ++
    (if p.step then [.scan] else [])

/-- STEP, the scanner's own enable, is asserted whenever BUSY = 1 (30_encoding R60). -/
def State.stepEnable (s : State) : Bool := s.busy

/-- The event word of an operation; none for a signature, which is no event. -/
def eventOf (i : Instr) : Option EventWord :=
  match encode P0 i with
  | .ev w => some w
  | .sig _ => none

/-- The environment drives the strobes of one instant: their operations come after those already presented. -/
def State.present (p : Inputs) (s : State) : State := { s with input := s.input ++ p.operations.filterMap eventOf }

/-- The output levels (30_encoding R60). -/
structure Outputs where
  busy : Bool
  updated : Bool
  link : BitVec 2
  cd : BitVec 2
  curTs : BitVec 57
  syncTs : BitVec 57
  deriving DecidableEq, Repr

/-- The output levels read the registers of the same names (30_encoding R60). -/
def State.outputs (s : State) : Outputs where
  busy := s.busy
  updated := s.updated
  link := s.link.code
  cd := s.cd.code
  curTs := s.curTs.pack
  syncTs := s.syncTs.pack

/-- OUT_CODE (30_encoding R81). -/
def OutEvent.code : OutEvent → BitVec 4
  | .trigger => 1
  | .syncTs _ => 2
  | .status _ _ => 3
  | .linkLost => 4
  | .dbgSkip _ => 8
  | .dbgMalformed _ => 9
  | .dbgChecksum _ _ _ => 10
  | .dbgMissedPulse => 11

/-- One item of an event's payload (30_encoding R81). (log 18) -/
inductive PayloadItem where
  | byte (b : Byte)
  | timestamp (w : BitVec 57)
  | link (code : BitVec 2)
  /-- The length that precedes a byte string. -/
  | length (n : Nat)
  deriving DecidableEq, Repr

/-- The payload, in the order of 30_encoding R80 (R81). -/
def OutEvent.payload : OutEvent → List PayloadItem
  | .trigger => []
  | .syncTs ts => [.timestamp ts.pack]
  | .status ts link => [.timestamp ts.pack, .link link.code]
  | .linkLost => []
  | .dbgSkip n => [.byte n]
  | .dbgMalformed bytes => .length bytes.length :: bytes.map .byte
  | .dbgChecksum c e bytes => .byte c :: .byte e :: .length bytes.length :: bytes.map .byte
  | .dbgMissedPulse => []

/-- The five error kinds (60_exceptions R190). -/
inductive ErrorKind where
  | framingLoss
  | malformedPacket
  | checksumMismatch
  | linkSilence
  | missedPulse
  deriving DecidableEq, Repr

/-- The error kind an event reports, if it reports one (60_exceptions R190). -/
def OutEvent.errorKind : OutEvent → Option ErrorKind
  | .trigger => none
  | .syncTs _ => none
  | .status _ _ => none
  | .linkLost => some .linkSilence
  | .dbgSkip _ => some .framingLoss
  | .dbgMalformed _ => some .malformedPacket
  | .dbgChecksum _ _ _ => some .checksumMismatch
  | .dbgMissedPulse => some .missedPulse

/-- The code of an error kind (60_exceptions R190). -/
def ErrorKind.code : ErrorKind → BitVec 4
  | .framingLoss => 8
  | .malformedPacket => 9
  | .checksumMismatch => 10
  | .linkSilence => 4
  | .missedPulse => 11

end Sys2Proof.Machine
end

