-- ==== Sys2Proof/Machine/Stimulus.lean ====
section
/-! DEFINITION. The environment's side: runs of operations, poll calls, the pseudo-operations and the trace syntax (spec
30_encoding R82, R83, 40_ring_buffer R99, 70_reset_and_hazards R225). -/

namespace Sys2Proof.Machine

/-- Performs operations in turn, stopping at the first that gives no next state (70_reset_and_hazards R225: a run). -/
def runOps (ops : List Instr) (s : State) : Result :=
  match ops with
  | [] => .next s
  | i :: rest =>
    match exec i s with
    | .next t => runOps rest t
    | .fault f => .fault f
    | .refused r => .refused r

/-- SCAN repeated while BUSY = 1, at most `fuel` times (30_encoding R83). -/
def scanWhileBusy (fuel : Nat) (s : State) : Result :=
  match fuel with
  | 0 => .next s
  | fuel + 1 =>
    if s.busy then
      match exec .scan s with
      | .next t => scanWhileBusy fuel t
      | .fault f => .fault f
      | .refused r => .refused r
    else .next s

/-- More SCAN steps than any poll call takes: (SNAP - RD) mod 256 is at most 255 (40_ring_buffer R99). -/
def pollCallBound : Nat := 259

/-- POLLALL: POLL followed by SCAN repeated while BUSY = 1 (30_encoding R83). -/
def pollAll (s : State) : Result :=
  match exec .poll s with
  | .next t => scanWhileBusy pollCallBound t
  | .fault f => .fault f
  | .refused r => .refused r

/-- A line of a stimulus: an operation (30_encoding R82) or a pseudo-operation (R83). -/
inductive Line where
  | op (i : Instr)
  | rx (bytes : List Byte)
  | ticks (k : Nat)
  | pollAll
  | feed (bytes : List Byte)
  deriving DecidableEq, Repr

/-- FEED: for each byte in turn, RXB then POLLALL (30_encoding R83). -/
def feed (bytes : List Byte) (s : State) : Result :=
  match bytes with
  | [] => .next s
  | b :: rest =>
    match exec (.rxb b) s with
    | .next t =>
      match pollAll t with
      | .next u => feed rest u
      | .fault f => .fault f
      | .refused r => .refused r
    | .fault f => .fault f
    | .refused r => .refused r

/-- Performs one line of a stimulus by its expansion (30_encoding R83). -/
def runLine (l : Line) (s : State) : Result :=
  match l with
  | .op i => runOps [i] s
  | .rx bytes => runOps (bytes.map .rxb) s
  | .ticks k => runOps (List.replicate k .tick) s
  | .pollAll => pollAll s
  | .feed bytes => feed bytes s

/-- Performs a stimulus, line by line. -/
def runLines (ls : List Line) (s : State) : Result :=
  match ls with
  | [] => .next s
  | l :: rest =>
    match runLine l s with
    | .next t => runLines rest t
    | .fault f => .fault f
    | .refused r => .refused r

/-- The block is idle when BUSY = 0 (70_reset_and_hazards R225). -/
def State.idle (s : State) : Prop := s.busy = false

/-- The block is drained when BUSY = 0 and RD = WR (70_reset_and_hazards R225). -/
def State.drained (s : State) : Prop := s.busy = false ∧ s.rd = s.wr

/-- A digit of base 10 or 16. -/
def digitValue (base : Nat) (c : Char) : Option Nat :=
  let n := c.toNat
  let v :=
    if 48 ≤ n ∧ n ≤ 57 then n - 48
    else if 65 ≤ n ∧ n ≤ 70 then n - 55
    else if 97 ≤ n ∧ n ≤ 102 then n - 87
    else 16
  if v < base then some v else none

/-- The number a row of digits writes, most significant first. -/
def digitsValue (base acc : Nat) (cs : List Char) : Option Nat :=
  match cs with
  | [] => some acc
  | c :: rest =>
    match digitValue base c with
    | some v => digitsValue base (acc * base + v) rest
    | none => none

/-- An operand: decimal, or hexadecimal after `0x`, in 0..255 (30_encoding R82). (log 19) -/
def parseOperand (cs : List Char) : Option Byte :=
  let v :=
    match cs with
    | [] => none
    | ['0', 'x'] => none
    | '0' :: 'x' :: hex => digitsValue 16 0 hex
    | dec => digitsValue 10 0 dec
  match v with
  | some n => if n < 256 then some (BitVec.ofNat 8 n) else none
  | none => none

/-- The operation a line of trace syntax writes (30_encoding R82); none for any other text. -/
def parseLine (cs : List Char) : Option Instr :=
  match cs with
  | ['R', 'E', 'S', 'E', 'T'] => some .reset
  | ['T', 'I', 'C', 'K'] => some .tick
  | ['P', 'P', 'S'] => some .pps
  | ['P', 'O', 'L', 'L'] => some .poll
  | ['S', 'C', 'A', 'N'] => some .scan
  | 'C' :: 'F' :: 'G' :: ' ' :: n => (parseOperand n).map .cfg
  | 'R' :: 'X' :: 'B' :: ' ' :: b => (parseOperand b).map .rxb
  | _ => none

/-- The event word a line of trace syntax assembles to (30_encoding R82). -/
def assemble (cs : List Char) : Option EventWord := (parseLine cs).bind eventOf

end Sys2Proof.Machine
end

