-- ==== Sys2Proof/Safety.lean ====
section
/-! DEFINITION. What the claims speak of: the invariants of spec 10_state R34 and 45_countdown R176, the frame of an operation,
the day count that the epoch correction must keep, and the stuffed form of a Trimble payload (spec 30_encoding R70). -/

namespace Sys2Proof.Machine

/-- The ring memory has its canonical form and lies in 0..255 (20_memory R41). -/
abbrev State.ringOk (s : State) : Prop := s.buf.wf ringSize

/-- The scratch memory has its canonical form and lies in 0..20 (20_memory R42). -/
abbrev State.scratchOk (s : State) : Prop := s.pkt.wf pktCap

/-- 10_state R34 (a): PTYPE = UNKNOWN implies PLEN = 0 and ESC = 0. -/
abbrev State.unknownIsEmpty (s : State) : Prop := s.ptype = .unknown → s.plen = 0 ∧ s.esc = false

/-- 10_state R34 (b): in a Magellan packet ESC = 0. -/
abbrev State.escapeIsTrimble (s : State) : Prop :=
  s.ptype = .known .magTime ∨ s.ptype = .known .magStatus → s.esc = false

/-- 10_state R34 (c): PLEN < LEN(PTYPE) when PTYPE is not UNKNOWN. -/
abbrev State.lengthBelowFrame (s : State) : Prop :=
  match s.ptype with
  | .unknown => True
  | .known c => s.plen.toNat < frameLen c

/-- 45_countdown R176: EXPLEN = 0 and REMAINING = 0, or 1 <= REMAINING <= EXPLEN. -/
abbrev State.remainingOk (s : State) : Prop :=
  s.explen = 0 ∧ s.remaining = 0 ∨ 1 ≤ s.remaining.toNat ∧ s.remaining.toNat ≤ s.explen.toNat

/-- 45_countdown R169: a disabled synchronizer stays in the state CFG gave it, SYNCING. -/
abbrev State.disabledIsSyncing (s : State) : Prop := s.explen = 0 → s.cd = .syncing

/-- The invariant of every state reachable from RESET (10_state R34 (a) to (d), 45_countdown R169, R176), with the
canonical form of the two memories (log 15). 10_state R34 (e) is `State.ageBounded`. (log 10) -/
abbrev State.Inv (s : State) : Prop :=
  s.ringOk ∧ s.scratchOk ∧ s.unknownIsEmpty ∧ s.escapeIsTrimble ∧ s.lengthBelowFrame ∧ s.remainingOk ∧
    s.disabledIsSyncing

/-- The bound on AGE of 44_link_state R153, first sentence: AGE exceeds SILENCE_LIMIT by one at most, and then the link
is lost. -/
abbrev State.ageOk (s : State) : Prop :=
  s.age.toNat ≤ s.params.silenceLimit ∨ s.age.toNat = s.params.silenceLimit + 1 ∧ s.link = .unavailable

/-- 44_link_state R153: AGE is at most SILENCE_LIMIT + 1 + a, and one less while a tick may still be counted. -/
abbrev State.ageCounted (a : Nat) (s : State) : Prop :=
  s.age.toNat ≤ s.params.silenceLimit ∨
    s.age.toNat + (if s.link = .unavailable then 0 else 1) ≤ s.params.silenceLimit + 1 + a

/-- The count `a` of 44_link_state R153 after an operation that takes `s` to `t`: from 0 at every RXB (and RESET), one more
for a SCAN that accepts a Timestamp while the link is UNAVAILABLE, the only acceptance that lets AGE grow further. -/
def lateAccepted (a : Nat) (i : Instr) (s t : State) : Nat :=
  match i with
  | .rxb _ => 0
  | .reset => 0
  | .scan => if s.link = .unavailable ∧ t.link = .active then a + 1 else a
  | .poll => a
  | .cfg _ => a
  | .tick => a
  | .pps => a
  | .reserved6 => a
  | .magTime _ => a
  | .magStatus _ => a
  | .trimble => a

/-- No byte of an accepted frame can be the MG_SYNC bytes of the next one, and no lone DLE can end a frame; true of P0.
(log 23) -/
abbrev framesApart (P : Params) : Prop := P.mgLf ≠ P.mgSync ∧ P.etx ≠ P.mgSync ∧ P.dle ≠ P.etx

/-- The least number of bytes that RD moves on from one accepted frame to the next: 13, or 11 where a frame may begin with
the last two bytes of the one before. (log 23) -/
def bytesPerFrame (P : Params) : Nat := if framesApart P then 13 else 11

/-- A bound on the Timestamps accepted after a byte and before the next one, the number `a` of 44_link_state R153; the rule
says 19. (log 23) -/
def maxLateFrames (P : Params) : Nat := if framesApart P then 20 else 24

/-- How many bytes behind RD may begin the next frame. -/
def bytesBehind (s : State) : Nat :=
  if framesApart s.params then
    if readRing s (s.rd - 1) ≠ s.params.mgSync then 0
    else if readRing s (s.rd - 2) ≠ s.params.mgSync then 1
    else 2
  else 2

/-- The bytes to come, with those that the packet in progress already holds; a Trimble frame is 8 bytes longer than a
Magellan time packet. -/
def frameBytes (s : State) : Nat :=
  let unread := (s.wr - s.rd).toNat
  match s.ptype with
  | .unknown => unread + bytesBehind s
  | .known .trimble => unread + s.plen.toNat + s.esc.toNat - 8
  | .known .magTime => unread + s.plen.toNat
  | .known .magStatus => unread + s.plen.toNat

/-- A bound on the Timestamps that can be accepted before the next byte. A poll call in progress with an older snapshot may
accept one and still leave the ring full. -/
def lateFrames (s : State) : Nat :=
  if s.busy = true ∧ s.snap ≠ s.wr then maxLateFrames s.params else frameBytes s / bytesPerFrame s.params

/-- AGE at most SILENCE_LIMIT + 1 + a, now and until the next byte. Above SILENCE_LIMIT every further tick counted needs a
Timestamp accepted before it, so a tick that may be counted now, and one for each Timestamp that may still be accepted, are
counted in. With a = 19 it is the bound of 10_state R34 (e). (log 23) -/
abbrev State.ageWithin (a : Nat) (s : State) : Prop :=
  s.age.toNat ≤ s.params.silenceLimit ∨
    s.age.toNat + (if s.link = .unavailable then 0 else 1) + lateFrames s ≤ s.params.silenceLimit + 1 + a

/-- The bound on AGE of 10_state R34 (e) and 44_link_state R153 as an invariant, with a number that holds. (log 23) -/
abbrev State.ageBounded (s : State) : Prop := s.ageWithin (maxLateFrames s.params)

/-- A function applied to the next state, where there is one. -/
def mapNext (f : State → State) : Result → Result
  | .next t => .next (f t)
  | .fault r => .fault r
  | .refused r => .refused r

/-- A decoder step is due for a packet of class `c`: BUSY = 1, RD is not SNAP, PTYPE = c (40_ring_buffer R93). -/
abbrev decoding (c : PacketClass) (s : State) : Prop := s.busy = true ∧ s.rd ≠ s.snap ∧ s.ptype = .known c

/-- The STATUS event that END_POLL owes: one exactly when UPDATED = 1 (40_ring_buffer R95). -/
def statusOwed (updated : Bool) (ts : Timestamp) (link : Link) : List OutEvent :=
  if updated then [.status ts link] else []

/-- The XOR of `n` bytes of a memory from address `a` on (30_encoding R75). -/
def xorFrom (m : Memory) (a n : Nat) : Byte :=
  match n with
  | 0 => 0
  | n + 1 => m.read a ^^^ xorFrom m (a + 1) n

/-- The days of the years before `y`, counted from year 0 by the 4/100/400 rule (43_magellan_decoder R136). -/
def daysBeforeYear (y : Nat) : Nat :=
  match y with
  | 0 => 0
  | y + 1 => daysBeforeYear y + if leapYear y then 366 else 365

/-- The days of the months before `m` in year `y` (43_magellan_decoder R136). -/
def daysBeforeMonth (m : Month) (y : Nat) : Nat :=
  let feb := if leapYear y then 29 else 28
  match m with
  | .jan => 0
  | .feb => 31
  | .mar => 31 + feb
  | .apr => 62 + feb
  | .may => 92 + feb
  | .jun => 123 + feb
  | .jul => 153 + feb
  | .aug => 184 + feb
  | .sep => 215 + feb
  | .oct => 245 + feb
  | .nov => 276 + feb
  | .dec => 306 + feb

/-- The number of a day, counted on through months and years: "day 240 of December" is a day of the next summer. -/
def dayNumber (d : Nat) (m : Month) (y : Nat) : Nat := daysBeforeYear y + daysBeforeMonth m y + d

/-- A Trimble payload as it is sent: every byte equal to DLE twice (30_encoding R70). -/
def stuffed (dle : Byte) (payload : List Byte) : List Byte :=
  payload.flatMap fun b => if b = dle then [b, b] else [b]

/-- The ring holds these bytes from an index on, wrapping (20_memory R44). -/
def ringHolds (s : State) (i : Byte) (bytes : List Byte) : Prop :=
  ∀ k (h : k < bytes.length), readRing s (i + BitVec.ofNat 8 k) = bytes[k]

/-- The byte `b`, arriving next, is read by the synchronizer: no packet is in progress, or the packet ends on a held lone DLE
and leaves `b` unconsumed (42_trimble_decoder R116). -/
abbrev synchronizerReads (s : State) (b : Byte) : Prop :=
  s.ptype = .unknown ∨ s.ptype = .known .trimble ∧ s.esc = true ∧ s.plen = 20 ∧ b ≠ s.params.dle

/-- No signature ends on byte `k` of a sequence fed from `s`, if the synchronizer reads it. (log 20) -/
def noSignatureAt (bytes : List Byte) (k : Nat) (s : State) : Prop :=
  ∀ (h : k < bytes.length) (before arrived : State),
    runLine (.feed (bytes.take k)) s = .next before → runLine (.rx (bytes.take (k + 1))) s = .next arrived →
    synchronizerReads before bytes[k] →
    classify s.params (window { arrived with rd := s.wr + BitVec.ofNat 8 k }) = none

/-- Stores bytes in the ring from an index on, wrapping; no register moves. -/
def writeRingFrom (i : Byte) (bytes : List Byte) (s : State) : State :=
  match bytes with
  | [] => s
  | b :: rest => writeRingFrom (i + 1) rest (writeRing i b s)

/-- What the synchronizer looks back on when a batch has arrived whole: its bytes from the 254th on lie in the cells behind its
first one (20_memory R54: "Near an overrun they may hold bytes newer than `BUF[RD]`"). (log 20) -/
def lookBehindOf (bytes : List Byte) (s : State) : State :=
  writeRingFrom (s.wr + 253) (bytes.drop 253) s

/-- The values taken by CUR_TS, each reported by one STATUS at the end of its poll call, and the other events: what
40_ring_buffer R98 compares. -/
def reports (trace : List OutEvent) : List Timestamp × List OutEvent :=
  match trace with
  | [] => ([], [])
  | .status ts _ :: rest => (ts :: (reports rest).1, (reports rest).2)
  | e :: rest => ((reports rest).1, e :: (reports rest).2)

/-- One second as 45_countdown R165 has it: the pulse, then the Timestamp of that second accepted; second by second. -/
def runSeconds (tss : List Timestamp) (s : State) : Result :=
  match tss with
  | [] => .next s
  | ts :: rest =>
    match exec .pps s with
    | .next t => runSeconds rest (acceptTs ts t)
    | .fault f => .fault f
    | .refused r => .refused r

/-- What 45_countdown R173 says the seconds `k + 1, k + 2, …` after alignment emit, exposure length `n`: TRIGGER and the
report of that second's Timestamp in every n-th. -/
def expectedEvents (n k : Nat) (tss : List Timestamp) : List OutEvent :=
  match tss with
  | [] => []
  | ts :: rest => (if (k + 1) % n = 0 then [.trigger, .syncTs ts] else []) ++ expectedEvents n (k + 1) rest

end Sys2Proof.Machine
end

