-- ==== Sys2Proof/Certificates/Slice0/Obligations.lean ====
section
/-! DEFINITION. The statements for the provers, each formalising or following from a numbered rule of the spec. -/

open Sys2Proof Sys2Proof.Machine

/-! ## Encoding -/

/-- Decode and encode agree, for every instruction and every parameter set in which its row is not hidden by an earlier
one (30_encoding R61, R62, R64, R68). -/
def Obligations.DecodeOfEncodeIsInstruction : Prop :=
  ∀ (P : Params) (i : Instr), i.WellFormed P → decode P (encode P i) = .ok i

/-- The other direction: a window that decodes is the encoding of the well-formed signature it decodes to, and an event word
is that of its operation, but for operand bits the operation does not use, which the encoder writes as 0. -/
def Obligations.EncodeOfDecodeIsWord : Prop :=
  (∀ (P : Params) (w : Window) (i : Instr), decodeWindow P w = .ok i → i.WellFormed P ∧ encode P i = .sig w) ∧
  (∀ (P : Params) (w : EventWord),
    encode P (decodeEvent w) =
      .ev (if w &&& 0x700 = 0x200 ∨ w &&& 0x700 = 0x500 then w else w &&& 0x700))

/-- 30_encoding R62 and R63: the mask 0x700 selects the row, every 11-bit word decodes to one of the eight rows, and code 6
changes nothing and emits nothing. -/
def Obligations.EventWordsDecodeToTheirRow : Prop :=
  (∀ w : EventWord,
    (w &&& 0x700 = 0x000 → decodeEvent w = .scan) ∧ (w &&& 0x700 = 0x100 → decodeEvent w = .poll) ∧
    (w &&& 0x700 = 0x200 → decodeEvent w = .cfg (w.setWidth 8)) ∧ (w &&& 0x700 = 0x300 → decodeEvent w = .tick) ∧
    (w &&& 0x700 = 0x400 → decodeEvent w = .pps) ∧ (w &&& 0x700 = 0x500 → decodeEvent w = .rxb (w.setWidth 8)) ∧
    (w &&& 0x700 = 0x600 → decodeEvent w = .reserved6) ∧ (w &&& 0x700 = 0x700 → decodeEvent w = .reset)) ∧
  (∀ w : EventWord, ∃ r ∈ eventRows, w &&& r.mask = r.value ∧ (decodeEvent w).mnemonic = r.mnemonic) ∧
  (∀ s : State, exec .reserved6 s = .next s)

/-- 30_encoding R64: CFG and RXB take the operand byte as it is; the other operations ignore it, and the encoder writes
0 there. -/
def Obligations.OperandByteIsUsedOrIgnored : Prop :=
  (∀ b : Byte, decodeEvent (eventWord 2 b) = .cfg b ∧ decodeEvent (eventWord 5 b) = .rxb b) ∧
  (∀ (op : BitVec 3) (b c : Byte), op ≠ 2 → op ≠ 5 → decodeEvent (eventWord op b) = decodeEvent (eventWord op c)) ∧
  (∀ (P : Params) (i : Instr) (w : EventWord), encode P i = .ev w → (∀ b, i ≠ .cfg b) → (∀ b, i ≠ .rxb b) →
    argField w = 0)

/-- Sanity: the words of 30_encoding R82's example, the words of vector V14, and windows of vector V19. -/
def Obligations.WrittenWordsDecode : Prop :=
  decodeEvent 0x510 = .rxb 0x10 ∧ decodeEvent 0x205 = .cfg 5 ∧ decodeEvent 0x400 = .pps ∧ decodeEvent 0x100 = .poll ∧
  decodeEvent 0x000 = .scan ∧ decodeEvent 0x300 = .tick ∧ decodeEvent 0x700 = .reset ∧ decodeEvent 0x6A5 = .reserved6 ∧
  decodeEvent 0x4FF = .pps ∧ decodeWindow P0 0x03108FAB = .ok .trimble ∧ decodeWindow P0 0x0A242441 = .ok (.magTime 0x0A) ∧
  decodeWindow P0 0x00242448 = .ok (.magStatus 0x00) ∧ decodeWindow P0 0x0A242442 = .error .noClass

/-- 30_encoding R68 at P0: a window selects a class when (W and mask) = match, the first row that matches wins, no window
matches two rows, and the rewind and len columns. -/
def Obligations.ClassifierFollowsTheRows : Prop :=
  (∀ w : Window,
    classify P0 w =
      if w &&& 0x00FFFFFF = 0x00242441 then some .magTime
      else if w &&& 0x00FFFFFF = 0x00242448 then some .magStatus
      else if w &&& 0xFFFFFFFF = 0x03108FAB then some .trimble
      else none) ∧
  (∀ w : Window, signatureRows.Pairwise fun r q => ¬ (w &&& r.mask = r.value ∧ w &&& q.mask = q.value)) ∧
  (∀ c : PacketClass, rewind c = 2) ∧
  frameLen .magTime = 13 ∧ frameLen .magStatus = 16 ∧ frameLen .trimble = 21

/-! ## Step, reset and the invariant -/

/-- A step performs the operation whose event word is presented next, and the word is consumed (70_reset_and_hazards R225;
that the words presented stand in a list is the model's choice, log 1). -/
def Obligations.StepPerformsThePresentedOperation : Prop :=
  ∀ (s : State) (w : EventWord) (rest : List EventWord) (i : Instr),
    s.input = w :: rest → decode s.params (.ev w) = .ok i → i.WellFormed s.params →
    step s = exec i { s with input := rest }

/-- The model's choice (log 2, after 70_reset_and_hazards R225 and 60_exceptions R202): with no operation presented the
block holds its state. -/
def Obligations.StepWithoutOperationHolds : Prop :=
  ∀ s : State, s.input = [] → step s = .next s

/-- The model's choice (log 7): a signature's window laid under the read cursor, with the SCAN that reads it presented, is
run by the next step as the signature it decodes to. -/
def Obligations.StepRunsThePlacedSignature : Prop :=
  ∀ (s : State) (w : Window) (i : Instr), decodeWindow s.params w = .ok i →
    step (s.withFetchWord 32 w.toNat) = exec i (placeWindow w s)

/-- 70_reset_and_hazards R210: RESET, op 7, gives every element of 10_state R10 its value of R35, from any state, and the
trace is not cleared. -/
def Obligations.ResetGivesEveryElementItsValue : Prop :=
  (∀ arg : Byte, decodeEvent (eventWord 7 arg) = .reset) ∧
  ∀ s : State, ∃ t, exec .reset s = .next t ∧
    (∀ a, t.buf.read a = 0) ∧ (∀ a, t.pkt.read a = 0) ∧ t.wr = 0 ∧ t.rd = 0 ∧ t.snap = 0 ∧ t.plen = 0 ∧ t.skip = 0 ∧
    t.age = 0 ∧ t.explen = 0 ∧ t.remaining = 0 ∧ t.busy = false ∧ t.updated = false ∧ t.esc = false ∧
    t.recordSync = false ∧ t.magLocked = false ∧ t.ptype = .unknown ∧ t.link = .unavailable ∧ t.cd = .syncing ∧
    t.curTs = ⟨0, 0, 0, 0, 0, 0, false⟩ ∧ t.syncTs = ⟨0, 0, 0, 0, 0, 0, false⟩ ∧ t.trace = s.trace

/-- The reset state satisfies the invariant of 10_state R34 (a) to (d) and 45_countdown R169, R176, without R34 (e) (log 10:
that clause is AgeStaysWithinTheRing), and the canonical form of the two memories, which is the model's (log 15). -/
def Obligations.ResetStateSatisfiesInvariant : Prop := State.reset.Inv

/-- Every step keeps the invariant of 10_state R34 (a) to (d) and 45_countdown R169, R176, from every state that has it; with
it the canonical form of the two memories, which is the model's (log 15); without R34 (e) (log 10: that clause is
AgeStaysWithinTheRing). -/
def Obligations.StepKeepsInvariant : Prop :=
  ∀ s t : State, s.Inv → step s = .next t → t.Inv

/-- 40_ring_buffer R97 (d), 60_exceptions R185: in no case does a rule fail, block or fault. Every operation completes from
every state that has the invariant, and so does every step. -/
def Obligations.NothingStopsTheBlock : Prop :=
  (∀ (i : Instr) (s : State), s.Inv → ∃ t, exec i s = .next t ∧ t.Inv) ∧ (∀ s : State, s.Inv → ∃ t, step s = .next t)

/-- 10_state R33: no operation writes the parameters or the input still to come, or takes anything back from the trace (that
the three are fields of the state is the model's choice: log 1, log 3, log 4). -/
def Obligations.OperationsKeepParametersInputAndTrace : Prop :=
  ∀ (i : Instr) (s t : State), exec i s = .next t →
    t.params = s.params ∧ t.input = s.input ∧ ∃ new, t.trace = s.trace ++ new

/-- 20_memory R48 and the "written by" column of 10_state R10: what each context may write. -/
def Obligations.ContextsWriteOnlyTheirElements : Prop :=
  ∀ (i : Instr) (s t : State), exec i s = .next t →
    (i.context = .interrupt →
      t = { s with buf := t.buf, wr := t.wr, link := t.link, age := t.age, cd := t.cd, remaining := t.remaining,
                   recordSync := t.recordSync, trace := t.trace }) ∧
    (i.context = .polling →
      t = { s with rd := t.rd, snap := t.snap, busy := t.busy, updated := t.updated, ptype := t.ptype, plen := t.plen,
                   pkt := t.pkt, esc := t.esc, skip := t.skip, link := t.link, cd := t.cd, remaining := t.remaining,
                   recordSync := t.recordSync, magLocked := t.magLocked, curTs := t.curTs, syncTs := t.syncTs,
                   trace := t.trace }) ∧
    (i.context = .config → t = { s with cd := t.cd, explen := t.explen, remaining := t.remaining }) ∧
    (i.context = .none → t = s) ∧
    ((∀ b, i ≠ .rxb b) → i ≠ .reset → t.wr = s.wr ∧ ∀ a, t.buf.read a = s.buf.read a)

/-! ## Receive ring buffer, POLL and SCAN -/

/-- 40_ring_buffer R90 with 44_link_state R151: RXB, op 5, stores the byte at WR, advances WR with wraparound, clears AGE and leaves
UNAVAILABLE; every other cell and every other element is unchanged. -/
def Obligations.RxbStoresTheByte : Prop :=
  (∀ b : Byte, decodeEvent (eventWord 5 b) = .rxb b) ∧
  ∀ (b : Byte) (s : State), ∃ t, exec (.rxb b) s = .next t ∧
    t.buf.read s.wr.toNat = b ∧ (∀ a, a ≠ s.wr.toNat → t.buf.read a = s.buf.read a) ∧
    t.wr.toNat = (s.wr.toNat + 1) % 256 ∧ t.age = 0 ∧
    t.link = (if s.link = .unavailable then .syncing else s.link) ∧
    t = { s with buf := t.buf, wr := t.wr, age := t.age, link := t.link }

/-- 20_memory R55, 40_ring_buffer R97 (a): any number of bytes is taken without a fault, a flag or an event; the apparent
number of unread bytes is counted modulo 256, and each cell holds the newest byte stored there. -/
def Obligations.OverrunIsSilent : Prop :=
  ∀ (bytes : List Byte) (s : State), ∃ t, runOps (bytes.map .rxb) s = .next t ∧
    (t.wr - t.rd).toNat = ((s.wr - s.rd).toNat + bytes.length) % 256 ∧
    (∀ (k : Nat) (h : k < bytes.length), bytes.length ≤ k + 256 →
      t.buf.read ((s.wr.toNat + k) % 256) = bytes[k]) ∧
    (∀ a, (∀ k, k < bytes.length → a ≠ (s.wr.toNat + k) % 256) → t.buf.read a = s.buf.read a) ∧
    t = { s with buf := t.buf, wr := t.wr, age := t.age, link := t.link }

/-- POLL, op 1, takes the snapshot (40_ring_buffer R92). With BUSY = 1 the rule gives it no step; that exec then answers the
same state is the model's reading (log 5). -/
def Obligations.PollTakesTheSnapshot : Prop :=
  (∀ arg : Byte, decodeEvent (eventWord 1 arg) = .poll) ∧
  ∀ s : State,
    (s.busy = false → exec .poll s = .next { s with snap := s.wr, busy := true, updated := false }) ∧
    (s.busy = true → exec .poll s = .next s)

/-- The dispatch of SCAN, op 0, with BUSY = 1 (40_ring_buffer R93). With BUSY = 0 the rule gives it no step; that exec then
answers the same state is the model's reading (log 5). -/
def Obligations.ScanDispatches : Prop :=
  (∀ arg : Byte, decodeEvent (eventWord 0 arg) = .scan) ∧
  ∀ s : State,
    (s.busy = false → exec .scan s = .next s) ∧
    (s.busy = true → s.rd = s.snap → exec .scan s = .next (endPoll s)) ∧
    (s.busy = true → s.rd ≠ s.snap → s.ptype = .unknown → exec .scan s = .next (syncStep s)) ∧
    (s.busy = true → s.rd ≠ s.snap → s.ptype = .known .trimble → exec .scan s = trimbleStep s) ∧
    (s.busy = true → s.rd ≠ s.snap → s.ptype = .known .magTime → exec .scan s = magellanStep .magTime s) ∧
    (s.busy = true → s.rd ≠ s.snap → s.ptype = .known .magStatus → exec .scan s = magellanStep .magStatus s)

/-- 40_ring_buffer R94, R95: SCAN when drained ends the poll call, reports STATUS exactly when UPDATED = 1, and changes
nothing else. -/
def Obligations.DrainedScanEndsThePollCall : Prop :=
  ∀ s : State, s.busy = true → s.rd = s.snap →
    exec .scan s = .next { s with busy := false, trace := s.trace ++ statusOwed s.updated s.curTs s.link }

/-- 41_synchronizer R101 to R104: the synchronizer's step, by the byte under RD and the three behind it. -/
def Obligations.SynchronizerSkipsOrMatches : Prop :=
  ∀ s : State, synchronizing s →
    let P := s.params
    let b0 := s.buf.read s.rd.toNat
    let b1 := s.buf.read (s.rd - 1).toNat
    let b2 := s.buf.read (s.rd - 2).toNat
    let b3 := s.buf.read (s.rd - 3).toNat
    let matched := fun c => exec .scan s = .next
      { s with rd := s.rd - 2, skip := 0, ptype := .known c, plen := 0, esc := false,
               trace := s.trace ++ if s.skip.toNat > P.skipNoticeMin then [.dbgSkip s.skip] else [] }
    if b2 = P.mgSync ∧ b1 = P.mgSync ∧ b0 = P.mgTTime then matched .magTime
    else if b2 = P.mgSync ∧ b1 = P.mgSync ∧ b0 = P.mgTStatus then matched .magStatus
    else if b3 = P.etx ∧ b2 = P.dle ∧ b1 = P.tbId1 ∧ b0 = P.tbId2 then matched .trimble
    else exec .scan s = .next
      { s with rd := s.rd + 1, skip := if s.skip = 255 then 255 else s.skip + 1 }

/-- 41_synchronizer R105: the rewind puts RD on the frame's first byte, with the signature's next two bytes after it. -/
def Obligations.RewindLandsOnTheFirstByte : Prop :=
  ∀ (s : State) (c : PacketClass), synchronizing s → classify s.params (window s) = some c →
    ∃ t, exec .scan s = .next t ∧ t.ptype = .known c ∧ t.rd = s.rd - 2 ∧
      let P := s.params
      (t.buf.read t.rd.toNat, t.buf.read (t.rd + 1).toNat, t.buf.read (t.rd + 2).toNat) =
        match c with
        | .magTime => (P.mgSync, P.mgSync, P.mgTTime)
        | .magStatus => (P.mgSync, P.mgSync, P.mgTStatus)
        | .trimble => (P.dle, P.tbId1, P.tbId2)

/-- The model's reading of the signature rows (log 6): where the synchronizer's step is due and its window decodes to a
signature, SCAN has that signature's effect. -/
def Obligations.ScanRunsTheSignatureItDecodes : Prop :=
  ∀ (s : State) (i : Instr), synchronizing s → decodeWindow s.params (window s) = .ok i → exec .scan s = exec i s

/-- The model's reading of the signature rows (log 6): each performs 41_synchronizer R104 with its class where the
synchronizer's step is due, whatever its untested byte, and has no step anywhere else. -/
def Obligations.SignaturesRecogniseTheirClass : Prop :=
  ∀ (w3 : Byte) (s : State),
    let matched := fun c =>
      Host.Outcome.next (φ := Fault) (ρ := Refusal)
        { s with rd := s.rd - 2, skip := 0, ptype := .known c, plen := 0, esc := false,
                 trace := s.trace ++ if s.skip.toNat > s.params.skipNoticeMin then [.dbgSkip s.skip] else [] }
    (synchronizing s → exec (.magTime w3) s = matched .magTime ∧ exec (.magStatus w3) s = matched .magStatus ∧
      exec .trimble s = matched .trimble) ∧
    (¬ synchronizing s → exec (.magTime w3) s = .next s ∧ exec (.magStatus w3) s = .next s ∧ exec .trimble s = .next s)

/-- 20_memory R50, 70_reset_and_hazards R214: SCAN never reads the live write cursor (nor AGE, which 10_state R10 lets only
TICK read). -/
def Obligations.ScanNeverReadsTheWriteCursor : Prop :=
  ∀ (s : State) (wr : Byte) (age : BitVec 16),
    exec .scan { s with wr := wr, age := age } = mapNext (fun t => { t with wr := wr, age := age }) (exec .scan s)

/-- 40_ring_buffer R98's ground: a SCAN step depends on the snapshot only through whether RD = SNAP. -/
def Obligations.ScanReadsTheSnapshotOnlyAsEnd : Prop :=
  ∀ (s : State) (snap : Byte), s.rd ≠ s.snap → s.rd ≠ snap →
    exec .scan { s with snap := snap } = mapNext (fun t => { t with snap := snap }) (exec .scan s)

/-- 10_state R19, U17: no rule reads a scratch cell at PLEN or above. With the cells from PLEN on at any bytes, SCAN gives the
same state but for such cells. -/
def Obligations.StaleScratchIsNeverRead : Prop :=
  ∀ (s : State) (m : Memory), s.params.ok → s.Inv → (∀ a, a < s.plen.toNat → m.read a = s.pkt.read a) →
    ∃ t t', exec .scan s = .next t ∧ exec .scan { s with pkt := m } = .next t' ∧ t' = { t with pkt := t'.pkt } ∧
      ∀ a, a < t.plen.toNat → t'.pkt.read a = t.pkt.read a

/-- 40_ring_buffer R99: a poll call takes at most (SNAP - RD) mod 256 + 4 SCAN steps. -/
def Obligations.PollCallEnds : Prop :=
  ∀ s : State, s.Inv → s.busy = true →
    ∃ t, scanWhileBusy ((s.snap - s.rd).toNat + 4) s = .next t ∧ t.busy = false

/-- 40_ring_buffer R98: buffering is transparent. From an idle, drained state, up to 255 bytes fed one at a time (to `t`) and
the same bytes pushed in one batch (to `u`) give the same state and the same trace, once enough poll calls have drained both.
Up to 253 bytes there is no condition. The bytes from the 254th on overwrite the look-behind of the first (20_memory R54),
and a rewind there passes the write cursor (R97 (c)), so for 254 and 255 bytes (log 20): they agree if no signature ends on
the first byte (or the second of 255) with either look-behind; the batch is what feeding over the new look-behind gives (`t'`)
if none ends with that one; and where one does, the batch reports what its bytes up to that one report (`v`), so the two
agree in CUR_TS and in the events other than STATUS exactly when the bytes after it, fed, report nothing more. -/
def Obligations.BufferingIsTransparent : Prop :=
  ∀ (bytes : List Byte) (s : State), s.Inv → s.drained → bytes.length ≤ 255 →
    let polls := List.replicate (bytes.length + 1) Line.pollAll
    let behind := lookBehindOf bytes s
    ∃ t t' u, runLines (.feed bytes :: polls) s = .next t ∧ runLines (.feed bytes :: polls) behind = .next t' ∧
      runLines (.rx bytes :: polls) s = .next u ∧ t.drained ∧ u.drained ∧
      ((∀ k, k + 253 < bytes.length → noSignatureAt bytes k s ∧ noSignatureAt bytes k behind) → t = u) ∧
      ((∀ k, k + 253 < bytes.length → noSignatureAt bytes k behind) → t' = u) ∧
      (∀ k, k + 253 < bytes.length → ¬ noSignatureAt bytes k behind →
        ∃ v, runLines [.feed (bytes.take (k + 1)), .pollAll, .pollAll] behind = .next v ∧ u.trace = v.trace ∧
          u.curTs = v.curTs ∧ (reports t.trace = reports u.trace ↔ reports t.trace = reports v.trace))

/-! ## Trimble decoder -/

/-- 42_trimble_decoder R116, R117: the unstuffing scanner. A DLE is held; a pair stores one DLE; a held DLE that stood alone
is stored, and the byte after it too unless the DLE completed the frame, when that byte is not consumed. -/
def Obligations.TrimbleScannerUnstuffs : Prop :=
  ∀ s : State, decoding .trimble s → s.plen.toNat < 21 →
    let b := s.buf.read s.rd.toNat
    let dle := s.params.dle
    let n := s.plen.toNat
    let finish := fun t : State => Host.Outcome.next (φ := Fault) (ρ := Refusal) (if t.plen.toNat = 21 then tbFinish t else t)
    (s.esc = false → b = dle → exec .scan s = .next { s with rd := s.rd + 1, esc := true }) ∧
    (s.esc = false → b ≠ dle →
      exec .scan s = finish { s with rd := s.rd + 1, pkt := s.pkt.write n b, plen := s.plen + 1 }) ∧
    (s.esc = true → b = dle →
      exec .scan s = finish { s with rd := s.rd + 1, esc := false, pkt := s.pkt.write n dle, plen := s.plen + 1 }) ∧
    (s.esc = true → b ≠ dle → n = 20 →
      exec .scan s = .next (tbFinish { s with esc := false, pkt := s.pkt.write 20 dle, plen := 21 })) ∧
    (s.esc = true → b ≠ dle → n < 20 →
      exec .scan s =
        finish { s with rd := s.rd + 1, esc := false, pkt := (s.pkt.write n dle).write (n + 1) b, plen := s.plen + 2 })

/-- 30_encoding R70: a payload sent with every DLE doubled is stored as it was, one SCAN step for each byte sent, wherever
in the ring it starts. -/
def Obligations.UnstuffingInvertsStuffing : Prop :=
  ∀ (payload : List Byte) (s : State), s.busy = true → s.ptype = .known .trimble → s.esc = false →
    s.plen.toNat + payload.length < 21 → ringHolds s s.rd (stuffed s.params.dle payload) →
    (stuffed s.params.dle payload).length ≤ (s.snap - s.rd).toNat →
    ∃ t, runOps (List.replicate (stuffed s.params.dle payload).length .scan) s = .next t ∧
      t.plen.toNat = s.plen.toNat + payload.length ∧
      (∀ (k : Nat) (h : k < payload.length), t.pkt.read (s.plen.toNat + k) = payload[k]) ∧
      (∀ a, a < s.plen.toNat ∨ s.plen.toNat + payload.length ≤ a → t.pkt.read a = s.pkt.read a) ∧
      t = { s with rd := s.rd + BitVec.ofNat 8 (stuffed s.params.dle payload).length, plen := t.plen, pkt := t.pkt }

/-- The terminator's ETX after a held DLE completes a valid frame (42_trimble_decoder R118, R119): one Timestamp of the
fields at their offsets, accepted; the packet in progress reset; the poll call ended with STATUS. -/
def Obligations.TrimbleFrameIsAccepted : Prop :=
  ∀ s : State, decoding .trimble s → s.esc = true → s.plen = 19 → s.params.dle ≠ s.params.etx →
    s.buf.read s.rd.toNat = s.params.etx →
    let P := s.params
    let pkt := (s.pkt.write 19 P.dle).write 20 P.etx
    let ts : Timestamp :=
      { hours := pkt.read P.tbOffHour, minutes := pkt.read P.tbOffMin, seconds := pkt.read P.tbOffSec,
        day := pkt.read P.tbOffDay, month := pkt.read P.tbOffMonth,
        year := (pkt.read P.tbOffYearHi).setWidth 16 * 256 + (pkt.read P.tbOffYearLo).setWidth 16,
        locked := decide (pkt.read P.tbOffStatus &&& P.tbLockMask = P.tbLockValue) }
    ∃ t, exec .scan s = .next t ∧ t.curTs = ts ∧ t.link = .active ∧ t.updated = true ∧ t.busy = false ∧
      t.ptype = .unknown ∧ t.plen = 0 ∧ t.esc = false ∧ t.rd = s.rd + 1 ∧ t.pkt = pkt ∧
      pkt.read 19 = P.dle ∧ pkt.read 20 = P.etx ∧ (∀ a, a ≠ 19 → a ≠ 20 → pkt.read a = s.pkt.read a) ∧
      (t.cd, t.remaining, t.recordSync, t.syncTs) =
        ((acceptTs ts s).cd, (acceptTs ts s).remaining, (acceptTs ts s).recordSync, (acceptTs ts s).syncTs) ∧
      t.trace = (acceptTs ts s).trace ++ [.status ts .active] ∧
      t = { s with rd := t.rd, busy := t.busy, updated := t.updated, ptype := t.ptype, plen := t.plen, pkt := t.pkt,
                   esc := t.esc, link := t.link, cd := t.cd, remaining := t.remaining, recordSync := t.recordSync,
                   curTs := t.curTs, syncTs := t.syncTs, trace := t.trace }

/-- 21 stored bytes that do not end in DLE, ETX (42_trimble_decoder R118, 60_exceptions R192), for each way a store can be
the 21st: the raw bytes are reported, the packet in progress is reset, the poll call ends, and nothing else changes. A lone
DLE as the 21st byte leaves the byte that decided it unconsumed (R116). -/
def Obligations.TrimbleFrameIsRejected : Prop :=
  ∀ s : State, decoding .trimble s →
    let P := s.params
    let b := s.buf.read s.rd.toNat
    let rejected := fun (rd : Byte) (pkt : Memory) (bytes : List Byte) => exec .scan s = .next
      { s with rd := rd, busy := false, ptype := .unknown, plen := 0, esc := false, pkt := pkt,
               trace := s.trace ++ .dbgMalformed bytes :: statusOwed s.updated s.curTs s.link }
    (s.plen = 20 → s.esc = false → b ≠ P.dle → s.pkt.read 19 ≠ P.dle ∨ b ≠ P.etx →
      rejected (s.rd + 1) (s.pkt.write 20 b) ((List.range 20).map s.pkt.read ++ [b])) ∧
    (s.plen = 20 → s.esc = true → b = P.dle → s.pkt.read 19 ≠ P.dle ∨ P.dle ≠ P.etx →
      rejected (s.rd + 1) (s.pkt.write 20 P.dle) ((List.range 20).map s.pkt.read ++ [P.dle])) ∧
    (s.plen = 20 → s.esc = true → b ≠ P.dle → s.pkt.read 19 ≠ P.dle ∨ P.dle ≠ P.etx →
      rejected s.rd (s.pkt.write 20 P.dle) ((List.range 20).map s.pkt.read ++ [P.dle])) ∧
    (s.plen = 19 → s.esc = true → b ≠ P.dle → b ≠ P.etx →
      rejected (s.rd + 1) ((s.pkt.write 19 P.dle).write 20 b) ((List.range 19).map s.pkt.read ++ [P.dle, b]))

/-- 42_trimble_decoder R118, R119: TB_FINISH, whichever store completed the frame: a frame that ends in DLE, ETX becomes the
Timestamp of its fields, which is accepted; any other is reported with its 21 raw bytes; then PKT_RESET and END_POLL. -/
def Obligations.TrimbleFinishValidatesTheTerminator : Prop :=
  ∀ s : State,
    let P := s.params
    let terminated := s.pkt.read 19 = P.dle ∧ s.pkt.read 20 = P.etx
    let ts : Timestamp :=
      { hours := s.pkt.read P.tbOffHour, minutes := s.pkt.read P.tbOffMin, seconds := s.pkt.read P.tbOffSec,
        day := s.pkt.read P.tbOffDay, month := s.pkt.read P.tbOffMonth,
        year := (s.pkt.read P.tbOffYearHi).setWidth 16 * 256 + (s.pkt.read P.tbOffYearLo).setWidth 16,
        locked := decide (s.pkt.read P.tbOffStatus &&& P.tbLockMask = P.tbLockValue) }
    (terminated → tbFinish s =
      { acceptTs ts s with ptype := .unknown, plen := 0, esc := false, busy := false,
                           trace := (acceptTs ts s).trace ++ [.status ts .active] }) ∧
    (¬ terminated → tbFinish s =
      { s with ptype := .unknown, plen := 0, esc := false, busy := false,
               trace := s.trace ++ .dbgMalformed ((List.range 21).map s.pkt.read) ::
                 statusOwed s.updated s.curTs s.link })

/-! ## Magellan decoder -/

/-- 43_magellan_decoder R131: every step consumes one byte and stores it; the byte that makes PLEN reach LEN finishes the
packet. -/
def Obligations.MagellanStepStoresOneByte : Prop :=
  ∀ (c : PacketClass) (s : State), c ≠ .trimble → decoding c s → s.plen.toNat < frameLen c →
    let stored : State :=
      { s with rd := s.rd + 1, pkt := s.pkt.write s.plen.toNat (s.buf.read s.rd.toNat), plen := s.plen + 1 }
    (s.plen.toNat + 1 < frameLen c → exec .scan s = .next stored) ∧
    (s.plen.toNat + 1 = frameLen c → exec .scan s = .next (mgFinish c stored)) ∧
    stored.pkt.read s.plen.toNat = s.buf.read s.rd.toNat ∧
    (∀ a, a ≠ s.plen.toNat → stored.pkt.read a = s.pkt.read a)

/-- 43_magellan_decoder R132: MG_FINISH tests the line terminator first, then the checksum, then accepts by variant; in
every case PKT_RESET and END_POLL follow. -/
def Obligations.MagellanFinishValidatesInOrder : Prop :=
  ∀ (c : PacketClass) (s : State), c ≠ .trimble →
    let n := frameLen c
    let bytes := (List.range n).map s.pkt.read
    let computed := xorFrom s.pkt s.params.mgCsumStart (n - 2 - s.params.mgCsumStart)
    (s.pkt.read (n - 1) ≠ s.params.mgLf → mgFinish c s = endPoll (pktReset (emit (.dbgMalformed bytes) s))) ∧
    (s.pkt.read (n - 1) = s.params.mgLf → computed ≠ s.pkt.read (n - 2) →
      mgFinish c s = endPoll (pktReset (emit (.dbgChecksum computed (s.pkt.read (n - 2)) bytes) s))) ∧
    (s.pkt.read (n - 1) = s.params.mgLf → computed = s.pkt.read (n - 2) → c = .magStatus →
      mgFinish c s = endPoll (pktReset (mgStatusAccept s))) ∧
    (s.pkt.read (n - 1) = s.params.mgLf → computed = s.pkt.read (n - 2) → c = .magTime →
      mgFinish c s = endPoll (pktReset (mgTimeAccept s)))

/-- A last byte that is not the line terminator is a malformed packet (43_magellan_decoder R132, 60_exceptions R192): the
raw bytes are reported, the packet reset, the poll call ended, and nothing else changes. -/
def Obligations.MagellanTerminatorIsChecked : Prop :=
  ∀ (c : PacketClass) (s : State), c ≠ .trimble → decoding c s → s.plen.toNat + 1 = frameLen c →
    s.buf.read s.rd.toNat ≠ s.params.mgLf →
    exec .scan s = .next
      { s with rd := s.rd + 1, busy := false, ptype := .unknown, plen := 0, esc := false,
               pkt := s.pkt.write s.plen.toNat (s.buf.read s.rd.toNat),
               trace := s.trace ++
                 .dbgMalformed ((List.range s.plen.toNat).map s.pkt.read ++ [s.buf.read s.rd.toNat]) ::
                   statusOwed s.updated s.curTs s.link }

/-- 43_magellan_decoder R133, 30_encoding R75: a packet whose XOR from MG_CSUM_START to L - 3 differs from the byte at L - 2
is reported with the computed and the expected value and the raw packet, and nothing else changes. -/
def Obligations.MagellanChecksumIsChecked : Prop :=
  ∀ (c : PacketClass) (s : State), c ≠ .trimble → decoding c s → s.plen.toNat + 1 = frameLen c →
    s.buf.read s.rd.toNat = s.params.mgLf →
    let start := s.params.mgCsumStart.val
    let computed := xorFrom s.pkt start (frameLen c - 2 - start)
    computed ≠ s.pkt.read (frameLen c - 2) →
    exec .scan s = .next
      { s with rd := s.rd + 1, busy := false, ptype := .unknown, plen := 0, esc := false,
               pkt := s.pkt.write s.plen.toNat s.params.mgLf,
               trace := s.trace ++
                 .dbgChecksum computed (s.pkt.read (frameLen c - 2))
                   ((List.range s.plen.toNat).map s.pkt.read ++ [s.params.mgLf]) ::
                   statusOwed s.updated s.curTs s.link }

/-- 43_magellan_decoder R133: a flip of any set of bits, so of any single bit, in one byte of the checksum range or in the
checksum byte of a packet that would pass is reported as a checksum mismatch and never accepted. -/
def Obligations.ByteErrorsAreDetected : Prop :=
  ∀ (c : PacketClass) (s : State) (k : Nat) (flip : Byte), c ≠ .trimble → decoding c s → s.plen.toNat + 1 = frameLen c →
    s.buf.read s.rd.toNat = s.params.mgLf →
    xorFrom s.pkt s.params.mgCsumStart (frameLen c - 2 - s.params.mgCsumStart) = s.pkt.read (frameLen c - 2) →
    s.params.mgCsumStart.val ≤ k → k ≤ frameLen c - 2 → flip ≠ 0 →
    ∃ t e f bytes, exec .scan { s with pkt := s.pkt.write k (s.pkt.read k ^^^ flip) } = .next t ∧ e ≠ f ∧
      t.trace = s.trace ++ .dbgChecksum e f bytes :: statusOwed s.updated s.curTs s.link ∧
      t.curTs = s.curTs ∧ t.syncTs = s.syncTs ∧ t.link = s.link ∧ t.cd = s.cd ∧ t.remaining = s.remaining ∧
      t.magLocked = s.magLocked ∧ t.updated = s.updated ∧ t.ptype = .unknown ∧ t.busy = false

/-- 43_magellan_decoder R134: a valid status packet is edge-triggered: a lock bit that differs from MAG_LOCKED is recorded,
copied into CUR_TS and reported; one that does not changes nothing. Neither touches the link, the countdown or the latch. -/
def Obligations.StatusPacketIsEdgeTriggered : Prop :=
  ∀ s : State, decoding .magStatus s → s.plen = 15 → s.buf.read s.rd.toNat = s.params.mgLf →
    xorFrom s.pkt s.params.mgCsumStart (14 - s.params.mgCsumStart) = s.pkt.read 14 →
    let pkt := s.pkt.write 15 s.params.mgLf
    let l := decide (pkt.read s.params.msOffLock &&& s.params.msLockMask ≠ 0)
    let ts := { s.curTs with locked := l }
    (l ≠ s.magLocked → exec .scan s = .next
      { s with rd := s.rd + 1, busy := false, ptype := .unknown, plen := 0, esc := false, pkt := pkt, magLocked := l,
               curTs := ts, updated := true, trace := s.trace ++ [.status ts s.link] }) ∧
    (l = s.magLocked → exec .scan s = .next
      { s with rd := s.rd + 1, busy := false, ptype := .unknown, plen := 0, esc := false, pkt := pkt,
               trace := s.trace ++ statusOwed s.updated s.curTs s.link })

/-- 43_magellan_decoder R135, 30_encoding R76: a valid time packet with a month in range gives the Timestamp of its raw
time and its corrected date, locked as MAG_LOCKED; it is accepted, and the poll call ends with STATUS. The narrowing of
the year to 16 bits is the model's reading (log 11). -/
def Obligations.TimePacketIsAccepted : Prop :=
  ∀ (s : State) (month : Month), decoding .magTime s → s.plen = 12 → s.buf.read s.rd.toNat = s.params.mgLf →
    xorFrom s.pkt s.params.mgCsumStart (11 - s.params.mgCsumStart) = s.pkt.read 11 →
    let P := s.params
    let pkt := s.pkt.write 12 P.mgLf
    (pkt.read P.mtOffMonth).toNat = month.number →
    let date := normalise ((pkt.read P.mtOffDay).toNat + 229) month ((pkt.read P.mtOffYear).toNat + P.yearBase + 19)
    let ts : Timestamp :=
      { hours := pkt.read P.mtOffHour, minutes := pkt.read P.mtOffMin, seconds := pkt.read P.mtOffSec,
        day := BitVec.ofNat 8 date.1, month := BitVec.ofNat 8 date.2.1.number, year := BitVec.ofNat 16 date.2.2,
        locked := s.magLocked }
    ∃ t, exec .scan s = .next t ∧ t.curTs = ts ∧ t.link = .active ∧ t.updated = true ∧ t.busy = false ∧
      t.ptype = .unknown ∧ t.plen = 0 ∧ t.esc = false ∧ t.rd = s.rd + 1 ∧ t.pkt = pkt ∧
      (t.cd, t.remaining, t.recordSync, t.syncTs) =
        ((acceptTs ts s).cd, (acceptTs ts s).remaining, (acceptTs ts s).recordSync, (acceptTs ts s).syncTs) ∧
      t.trace = (acceptTs ts s).trace ++ [.status ts .active] ∧
      t = { s with rd := t.rd, busy := t.busy, updated := t.updated, ptype := t.ptype, plen := t.plen, pkt := t.pkt,
                   esc := t.esc, link := t.link, cd := t.cd, remaining := t.remaining, recordSync := t.recordSync,
                   curTs := t.curTs, syncTs := t.syncTs, trace := t.trace }

/-- A raw month outside 1..12 makes the packet malformed, and nothing else changes (43_magellan_decoder R138). The rule lets
a model give the case no meaning instead; that the model takes the effect is its choice (log 12). -/
def Obligations.MonthOutOfRangeIsMalformed : Prop :=
  ∀ s : State, decoding .magTime s → s.plen = 12 → s.buf.read s.rd.toNat = s.params.mgLf →
    xorFrom s.pkt s.params.mgCsumStart (11 - s.params.mgCsumStart) = s.pkt.read 11 →
    let pkt := s.pkt.write 12 s.params.mgLf
    ((pkt.read s.params.mtOffMonth).toNat < 1 ∨ (pkt.read s.params.mtOffMonth).toNat > 12) →
    exec .scan s = .next
      { s with rd := s.rd + 1, busy := false, ptype := .unknown, plen := 0, esc := false, pkt := pkt,
               trace := s.trace ++
                 .dbgMalformed ((List.range 12).map s.pkt.read ++ [s.params.mgLf]) ::
                   statusOwed s.updated s.curTs s.link }

/-- 43_magellan_decoder R137: NORMALISE ends on a valid date, the same day as the one it was given. -/
def Obligations.NormaliseIsExact : Prop :=
  ∀ (d : Nat) (m : Month) (y : Nat), 1 ≤ d →
    let r := normalise d m y
    1 ≤ r.1 ∧ r.1 ≤ daysInMonth r.2.1 r.2.2 ∧ 1 ≤ r.2.1.number ∧ r.2.1.number ≤ 12 ∧
      dayNumber r.1 r.2.1 r.2.2 = dayNumber d m y

/-- Sanity: the source's own input and the worked cases of 43_magellan_decoder R137, R139, at P0's year base. -/
def Obligations.NormaliseWorkedCases : Prop :=
  normalise (11 + 229) .dec (92 + 1919) = (27, .jul, 2012) ∧ normalise (1 + 229) .jan (93 + 1919) = (17, .aug, 2012) ∧
  normalise (20 + 229) .aug (93 + 1919) = (6, .apr, 2013) ∧ normalise (20 + 229) .aug (80 + 1919) = (5, .apr, 2000) ∧
  normalise (20 + 229) .aug (180 + 1919) = (6, .apr, 2100) ∧ normalise (31 + 229) .dec (255 + 1919) = (17, .aug, 2175)

/-- 60_exceptions R192, R193, R201: an operation that reports a malformed packet or a checksum mismatch builds no Timestamp,
leaves the link, the countdown and UPDATED alone, resets the packet in progress and ends the poll call. -/
def Obligations.RejectedFramesChangeNothingElse : Prop :=
  ∀ (i : Instr) (s t : State) (new : List OutEvent), exec i s = .next t → t.trace = s.trace ++ new →
    (∃ bytes, .dbgMalformed bytes ∈ new) ∨ (∃ c e bytes, .dbgChecksum c e bytes ∈ new) →
    i = .scan ∧ t.curTs = s.curTs ∧ t.syncTs = s.syncTs ∧ t.link = s.link ∧ t.cd = s.cd ∧ t.remaining = s.remaining ∧
      t.recordSync = s.recordSync ∧ t.magLocked = s.magLocked ∧ t.updated = s.updated ∧ t.ptype = .unknown ∧
      t.plen = 0 ∧ t.esc = false ∧ t.busy = false

/-! ## Link state -/

/-- 44_link_state R152: TICK, op 3. The sum is taken below the register's limit, where it cannot wrap (log 10). -/
def Obligations.TickCountsSilence : Prop :=
  (∀ arg : Byte, decodeEvent (eventWord 3 arg) = .tick) ∧
  ∀ s : State,
    (s.link = .unavailable → exec .tick s = .next s) ∧
    (s.link ≠ .unavailable → s.age.toNat < 65535 → s.age.toNat + 1 ≤ s.params.silenceLimit →
      exec .tick s = .next { s with age := s.age + 1 }) ∧
    (s.link ≠ .unavailable → s.age.toNat < 65535 → s.age.toNat + 1 > s.params.silenceLimit →
      exec .tick s = .next { s with age := s.age + 1, link := .unavailable, trace := s.trace ++ [.linkLost] })

/-- 44_link_state R156: a silence of k ticks loses the link, and reports it, exactly once for every k above SILENCE_LIMIT and
never before. -/
def Obligations.LinkIsLostExactlyOnce : Prop :=
  ∀ (k : Nat) (s : State), s.link ≠ .unavailable → s.age = 0 → s.params.silenceLimit ≤ 65000 →
    ∃ t, runOps (List.replicate k .tick) s = .next t ∧
      t.trace = s.trace ++ (if k ≤ s.params.silenceLimit then [] else [.linkLost]) ∧
      t.link = (if k ≤ s.params.silenceLimit then s.link else .unavailable) ∧
      t.age.toNat = min k (s.params.silenceLimit + 1) ∧
      t = { s with age := t.age, link := t.link, trace := t.trace }

/-- 44_link_state R153: AGE stays within SILENCE_LIMIT + 1 as long as no SCAN accepts a Timestamp while the link is
UNAVAILABLE; and in general within SILENCE_LIMIT + 1 + a, where a counts, since the last RXB, the Timestamps accepted so. -/
def Obligations.AgeStaysBounded : Prop :=
  (∀ (i : Instr) (s t : State), s.params.silenceLimit ≤ 65000 → s.ageOk → exec i s = .next t →
    i ≠ .scan ∨ s.link ≠ .unavailable ∨ t.link = s.link → t.ageOk) ∧
  (∀ (a : Nat) (i : Instr) (s t : State), s.params.silenceLimit + 1 + a < 65536 → s.ageCounted a → exec i s = .next t →
    t.ageCounted (lateAccepted a i s t))

/-- 10_state R24, R34 (e) and 44_link_state R153: AGE is at most SILENCE_LIMIT + 20, that is SILENCE_LIMIT + 1 + a with a = 19,
at RESET and after every step, until a tick loses the link with more than 19 Timestamps still to come; the same for any
other a. At P0 that takes 260 bytes at least, more than the ring holds, some of them in a packet in progress, or a poll call
on an older snapshot. Counting these in, a is 20 where frames do not overlap, as at P0, and at most 24 for any other
parameter set (log 23); that bound holds at RESET and every step keeps it. -/
def Obligations.AgeStaysWithinTheRing : Prop :=
  State.reset.ageBounded ∧
  (∀ s t : State, s.params.silenceLimit ≤ 65000 → s.Inv → s.ageBounded → step s = .next t → t.ageBounded) ∧
  (∀ s : State, s.ageBounded →
    s.age.toNat ≤ s.params.silenceLimit + 1 + (if framesApart s.params then 20 else 24)) ∧
  framesApart P0 ∧
  State.reset.ageWithin 19 ∧
  (∀ (a : Nat) (s t : State), s.params.silenceLimit + 1 + a < 65536 → s.Inv → s.ageWithin a → step s = .next t →
    (s.age.toNat ≤ s.params.silenceLimit → t.age.toNat > s.params.silenceLimit → lateFrames s ≤ a) → t.ageWithin a) ∧
  (∀ s : State, s.ageWithin 19 → s.age.toNat ≤ s.params.silenceLimit + 20) ∧
  (∀ s : State, framesApart s.params → s.busy = false ∨ s.snap = s.wr →
    lateFrames s ≤ 19 ∨ s.ptype ≠ .unknown ∧ 260 ≤ frameBytes s)

/-- 44_link_state R157: every transition of LINK, by its cause; there is none from ACTIVE back to SYNCING. -/
def Obligations.LinkTransitions : Prop :=
  ∀ (i : Instr) (s t : State), exec i s = .next t →
    (t.link = s.link ∨
      ((∃ b, i = .rxb b) ∧ s.link = .unavailable ∧ t.link = .syncing) ∨
      (i = .scan ∧ t.link = .active ∧ t.updated = true) ∨
      (i = .tick ∧ s.link ≠ .unavailable ∧ t.link = .unavailable ∧ (s.age + 1).toNat > s.params.silenceLimit ∧
        t.trace = s.trace ++ [.linkLost]) ∨
      (i = .reset ∧ t.link = .unavailable)) ∧
    (s.link = .active → t.link ≠ .syncing)

/-- 44_link_state R155 with 45_countdown R170 to R172 and 20_memory R52: what accepting a Timestamp does, and nothing else. -/
def Obligations.AcceptanceOfATimestamp : Prop :=
  ∀ (ts : Timestamp) (s : State),
    let missed := s.explen ≠ 0 ∧ s.cd = .enabled
    let fires := missed ∧ s.remaining = 1
    let latches := s.recordSync = true ∨ fires
    acceptTs ts s =
      { s with
        curTs := ts
        link := .active
        cd := if s.explen ≠ 0 ∧ (s.cd = .triggered ∨ s.cd = .syncing ∧ ts.seconds.toNat % s.explen.toNat = 0) then .enabled
              else s.cd
        remaining := if fires then s.explen else if missed then s.remaining - 1 else s.remaining
        recordSync := false
        syncTs := if latches then ts else s.syncTs
        updated := true
        trace := s.trace ++ (if missed then [.dbgMissedPulse] else []) ++ (if fires then [.trigger] else []) ++
          (if latches then [.syncTs ts] else []) }

/-! ## Exposure countdown -/

/-- 45_countdown R166: CFG, op 2. -/
def Obligations.CfgSetsTheExposureLength : Prop :=
  (∀ n : Byte, decodeEvent (eventWord 2 n) = .cfg n) ∧
  ∀ (n : Byte) (s : State), exec (.cfg n) s = .next { s with explen := n, remaining := n, cd := .syncing }

/-- 45_countdown R167, R168: PPS, op 4, counts a pulse while enabled, the link active and the countdown not SYNCING; reaching zero
reloads REMAINING, asks for the latch and emits TRIGGER; any other pulse does nothing. -/
def Obligations.PpsCountsThePulse : Prop :=
  (∀ arg : Byte, decodeEvent (eventWord 4 arg) = .pps) ∧
  ∀ s : State,
    let counts := s.explen ≠ 0 ∧ s.link = .active ∧ s.cd ≠ .syncing
    (¬ counts → exec .pps s = .next s) ∧
    (counts → s.remaining ≠ 1 → exec .pps s = .next { s with remaining := s.remaining - 1, cd := .triggered }) ∧
    (counts → s.remaining = 1 →
      exec .pps s = .next
        { s with remaining := s.explen, recordSync := true, cd := .triggered, trace := s.trace ++ [.trigger] })

/-- 45_countdown R169: with EXPLEN = 0 no pulse and no Timestamp touches the countdown or emits TRIGGER or DBG_MISSED_PULSE;
the latch still works. -/
def Obligations.DisabledSynchronizerDoesNothing : Prop :=
  ∀ (ts : Timestamp) (s : State), s.explen = 0 →
    exec .pps s = .next s ∧ (acceptTs ts s).cd = s.cd ∧ (acceptTs ts s).remaining = s.remaining ∧
    (acceptTs ts s).trace = s.trace ++ (if s.recordSync then [.syncTs ts] else []) ∧
    (acceptTs ts s).syncTs = (if s.recordSync then ts else s.syncTs)

/-- 45_countdown R173: after CFG N, N >= 1, and a Timestamp whose seconds are a multiple of N, the synchronizer is ENABLED with
REMAINING = N; from then on, with pulse and Timestamp alternating and the link active, TRIGGER is emitted in the k-th second
exactly when N divides k, and the Timestamp of that second is the one latched and reported. -/
def Obligations.TriggersEveryNPulses : Prop :=
  ∀ (n : Byte) (ts : Timestamp) (tss : List Timestamp) (s : State), n ≠ 0 → ts.seconds.toNat % n.toNat = 0 →
    ∃ u t, exec (.cfg n) s = .next u ∧ (acceptTs ts u).cd = .enabled ∧ (acceptTs ts u).remaining = n ∧
      runSeconds tss (acceptTs ts u) = .next t ∧
      t.trace = (acceptTs ts u).trace ++ expectedEvents n.toNat 0 tss ∧
      t.remaining.toNat = n.toNat - tss.length % n.toNat ∧ t.cd = .enabled ∧ t.link = .active ∧ t.recordSync = false

/-- 45_countdown R174: every transition of CD, by its cause; 45_countdown R175: no rule moves CD back to SYNCING except CFG
and RESET. -/
def Obligations.CountdownTransitions : Prop :=
  ∀ (i : Instr) (s t : State), exec i s = .next t →
    (t.cd = s.cd ∨
      (((∃ n, i = .cfg n) ∨ i = .reset) ∧ t.cd = .syncing) ∨
      (i = .scan ∧ s.explen ≠ 0 ∧ s.cd = .syncing ∧ t.cd = .enabled ∧
        t.curTs.seconds.toNat % s.explen.toNat = 0) ∨
      (i = .pps ∧ s.explen ≠ 0 ∧ s.link = .active ∧ s.cd = .enabled ∧ t.cd = .triggered) ∨
      (i = .scan ∧ s.explen ≠ 0 ∧ s.cd = .triggered ∧ t.cd = .enabled)) ∧
    (t.cd = .syncing → s.cd = .syncing ∨ (∃ n, i = .cfg n) ∨ i = .reset)

/-! ## Ports and events -/

/-- 30_encoding R66: the packed Timestamp word, its fields at their bits, and the rule's example. -/
def Obligations.TimestampPacking : Prop :=
  (∀ t : Timestamp,
    t.pack.extractLsb' 49 8 = t.hours ∧ t.pack.extractLsb' 41 8 = t.minutes ∧ t.pack.extractLsb' 33 8 = t.seconds ∧
    t.pack.extractLsb' 25 8 = t.day ∧ t.pack.extractLsb' 17 8 = t.month ∧ t.pack.extractLsb' 1 16 = t.year ∧
    t.pack.getLsbD 0 = t.locked) ∧
  (∀ w : BitVec 57, (Timestamp.unpack w).pack = w) ∧
  Timestamp.pack ⟨12, 34, 56, 27, 7, 2012, true⟩ = 0x184470360E0FB9

/-- 30_encoding R65, R81 and 60_exceptions R190: the codes of the enumerated registers, of the output events and of the
five error kinds, each kind with the event that reports it; codes 0, 5, 6, 7 and 12 to 15 are never produced. -/
def Obligations.CodesOfRegistersAndEvents : Prop :=
  (PType.unknown.code = 0 ∧ (PType.known .magTime).code = 1 ∧ (PType.known .magStatus).code = 2 ∧
    (PType.known .trimble).code = 3) ∧
  (Link.unavailable.code = 0 ∧ Link.syncing.code = 1 ∧ Link.active.code = 2) ∧
  (Countdown.syncing.code = 0 ∧ Countdown.enabled.code = 1 ∧ Countdown.triggered.code = 2) ∧
  (∀ l : Link, l.code ≠ 3) ∧ (∀ c : Countdown, c.code ≠ 3) ∧
  (∀ (ts : Timestamp) (l : Link) (n c e : Byte) (bytes : List Byte),
    OutEvent.trigger.code = 1 ∧ (OutEvent.syncTs ts).code = 2 ∧ (OutEvent.status ts l).code = 3 ∧
    OutEvent.linkLost.code = 4 ∧ (OutEvent.dbgSkip n).code = 8 ∧ (OutEvent.dbgMalformed bytes).code = 9 ∧
    (OutEvent.dbgChecksum c e bytes).code = 10 ∧ OutEvent.dbgMissedPulse.code = 11 ∧
    (OutEvent.dbgSkip n).errorKind = some .framingLoss ∧ (OutEvent.dbgMalformed bytes).errorKind = some .malformedPacket ∧
    (OutEvent.dbgChecksum c e bytes).errorKind = some .checksumMismatch ∧
    OutEvent.linkLost.errorKind = some .linkSilence ∧ OutEvent.dbgMissedPulse.errorKind = some .missedPulse) ∧
  (∀ e : OutEvent, e.code ∈ ([1, 2, 3, 4, 8, 9, 10, 11] : List (BitVec 4))) ∧
  (∀ (e : OutEvent) (k : ErrorKind), e.errorKind = some k → e.code = k.code)

/-- 60_exceptions R189: an operation emits at most four events; four only in a SCAN step that accepts a Timestamp with a
missed pulse at zero, in the order DBG_MISSED_PULSE, TRIGGER, SYNC_TS, STATUS. -/
def Obligations.AtMostFourEventsAnOperation : Prop :=
  ∀ (i : Instr) (s t : State), exec i s = .next t →
    ∃ new, t.trace = s.trace ++ new ∧ new.length ≤ 4 ∧
      (new.length = 4 →
        i = .scan ∧ new = [.dbgMissedPulse, .trigger, .syncTs t.curTs, .status t.curTs .active])

/-- 60_exceptions R188: strobes that arrive together are performed in the order RESET, RXB, PPS, TICK, CFG, POLL, SCAN, each
exactly when its strobe is set. -/
def Obligations.SimultaneousRequestsAreOrdered : Prop :=
  ∀ p : Inputs,
    p.operations.Sublist
      [.reset, .rxb (p.rx.getD 0), .pps, .tick, .cfg (p.cfg.getD 0), .poll, .scan] ∧
    (.reset ∈ p.operations ↔ p.rst = true) ∧ (∀ b, .rxb b ∈ p.operations ↔ p.rx = some b) ∧
    (.pps ∈ p.operations ↔ p.pps = true) ∧ (.tick ∈ p.operations ↔ p.tick = true) ∧
    (∀ n, .cfg n ∈ p.operations ↔ p.cfg = some n) ∧ (.poll ∈ p.operations ↔ p.poll = true) ∧
    (.scan ∈ p.operations ↔ p.step = true)
end

