-- ==== Sys2Proof/Laws/Decode.lean ====
section
/-! SUPPORT. The fields of an event word and the bytes of a window, as the decoders read what the encoder writes. -/

namespace Sys2Proof

@[simp] theorem opField_eventWord (op : BitVec 3) (arg : Byte) : opField (eventWord op arg) = op := by
  ext i hi
  simp only [opField, eventWord, BitVec.getElem_extractLsb', BitVec.getLsbD_cast, BitVec.getLsbD_append]
  simp [hi]

@[simp] theorem argField_eventWord (op : BitVec 3) (arg : Byte) : argField (eventWord op arg) = arg := by
  ext i hi
  simp only [argField, eventWord, BitVec.getElem_extractLsb', BitVec.getLsbD_cast, BitVec.getLsbD_append]
  simp [hi]

/-- An event word is its two fields. -/
theorem eventWord_fields (w : EventWord) : eventWord (opField w) (argField w) = w := by
  ext i hi
  simp only [eventWord, opField, argField, BitVec.getElem_cast, BitVec.getElem_append, BitVec.getElem_extractLsb']
  split
  · simp [BitVec.getLsbD_eq_getElem, hi]
  · have h : 8 + (i - 8) = i := by omega
    simp [h, hi]

/-- Byte `k` of four bytes, by the bits. -/
theorem Window.byte_ofBytes (b3 b2 b1 b0 : Byte) (k : Fin 4) :
    (Window.ofBytes b3 b2 b1 b0).byte k = match k with | 0 => b0 | 1 => b1 | 2 => b2 | 3 => b3 := by
  ext i hi
  simp only [Window.byte, Window.ofBytes, BitVec.getElem_extractLsb', BitVec.getLsbD_cast, BitVec.getLsbD_append]
  have h1 : ¬ 16 + i < 8 := by omega
  have h2 : ¬ 24 + i < 8 := by omega
  have h3 : ¬ 16 + i - 8 < 8 := by omega
  have h4 : ¬ 24 + i - 8 < 8 := by omega
  have h5 : ¬ 24 + i - 8 - 8 < 8 := by omega
  have h6 : 16 + i - 8 - 8 = i := by omega
  have h7 : 24 + i - 8 - 8 - 8 = i := by omega
  fin_cases k <;> simp [hi, h1, h2, h3, h4, h5, h6, h7]

@[simp] theorem Window.byte_zero_ofBytes (b3 b2 b1 b0 : Byte) : (Window.ofBytes b3 b2 b1 b0).byte 0 = b0 :=
  Window.byte_ofBytes b3 b2 b1 b0 0

@[simp] theorem Window.byte_one_ofBytes (b3 b2 b1 b0 : Byte) : (Window.ofBytes b3 b2 b1 b0).byte 1 = b1 :=
  Window.byte_ofBytes b3 b2 b1 b0 1

@[simp] theorem Window.byte_two_ofBytes (b3 b2 b1 b0 : Byte) : (Window.ofBytes b3 b2 b1 b0).byte 2 = b2 :=
  Window.byte_ofBytes b3 b2 b1 b0 2

@[simp] theorem Window.byte_three_ofBytes (b3 b2 b1 b0 : Byte) : (Window.ofBytes b3 b2 b1 b0).byte 3 = b3 :=
  Window.byte_ofBytes b3 b2 b1 b0 3

/-- A window is its four bytes. -/
theorem Window.ofBytes_byte (w : Window) : Window.ofBytes (w.byte 3) (w.byte 2) (w.byte 1) (w.byte 0) = w := by
  ext i hi
  simp only [Window.ofBytes, Window.byte, BitVec.getElem_cast, BitVec.getElem_append, BitVec.getElem_extractLsb']
  split
  · simp [BitVec.getLsbD_eq_getElem, hi]
  · split
    · have h : 8 + (i - 8) = i := by omega
      simp [h, hi]
    · split
      · have h : 16 + (i - 8 - 8) = i := by omega
        simp [h, hi]
      · have h : 24 + (i - 8 - 8 - 8) = i := by omega
        simp [h, hi]

/-- Windows with the same four bytes are the same. -/
theorem Window.ext_byte {v w : Window} (h3 : v.byte 3 = w.byte 3) (h2 : v.byte 2 = w.byte 2) (h1 : v.byte 1 = w.byte 1)
    (h0 : v.byte 0 = w.byte 0) : v = w := by
  rw [← Window.ofBytes_byte v, ← Window.ofBytes_byte w, h3, h2, h1, h0]

/-- What a classified window holds: the rows of spec 30_encoding R68, first match first. -/
theorem classify_eq_some {P : Params} {w : Window} {c : PacketClass} (h : classify P w = some c) :
    match c with
    | .magTime => w.byte 2 = P.mgSync ∧ w.byte 1 = P.mgSync ∧ w.byte 0 = P.mgTTime
    | .magStatus => w.byte 2 = P.mgSync ∧ w.byte 1 = P.mgSync ∧ w.byte 0 = P.mgTStatus ∧ P.mgTStatus ≠ P.mgTTime
    | .trimble =>
      w.byte 3 = P.etx ∧ w.byte 2 = P.dle ∧ w.byte 1 = P.tbId1 ∧ w.byte 0 = P.tbId2 ∧ Instr.WellFormed P .trimble := by
  unfold classify at h
  split at h
  · cases h; assumption
  · split at h
    · cases h
      rename_i h1 h2
      obtain ⟨a, b, d⟩ := h2
      exact ⟨a, b, d, fun e => h1 ⟨a, b, d.trans e⟩⟩
    · split at h
      · cases h
        rename_i h1 h2 h3
        obtain ⟨a, b, d, e⟩ := h3
        refine ⟨a, b, d, e, ?_⟩
        rintro ⟨f, g, i | i⟩
        · exact h1 ⟨b.trans f, d.trans g, e.trans i⟩
        · exact h2 ⟨b.trans f, d.trans g, e.trans i⟩
      · cases h

/-- What a decoded window's instruction is. -/
theorem decodeWindow_eq_ok {P : Params} {w : Window} {i : Instr} (h : decodeWindow P w = .ok i) :
    ∃ c, classify P w = some c ∧ i = signatureOf c (w.byte 3) := by
  unfold decodeWindow at h
  split at h
  · cases h; exact ⟨_, by assumption, rfl⟩
  · cases h

end Sys2Proof
end

