-- ==== Sys2Proof/Laws/Memory.lean ====
section
/-! SUPPORT. The laws of the two byte memories: a read after a write, and every operation keeps the canonical form. -/

namespace Sys2Proof.Machine

@[simp] theorem Memory.read_nil (a : Nat) : Memory.read [] a = unlisted := rfl

theorem Memory.read_erase_self (m : Memory) (a : Nat) : (m.erase a).read a = unlisted := by
  induction m with
  | nil => rfl
  | cons c t ih =>
    by_cases h : c.1 = a <;> simp_all [Memory.erase, Memory.read]

theorem Memory.read_erase_of_ne (m : Memory) {a b : Nat} (h : b ≠ a) : (m.erase a).read b = m.read b := by
  induction m with
  | nil => rfl
  | cons c t ih =>
    by_cases hc : c.1 = a
    · have : c.1 ≠ b := by omega
      simp_all [Memory.erase, Memory.read]
    · simp_all [Memory.erase, Memory.read]

theorem Memory.read_insert_of_ne (m : Memory) (v : Byte) {a b : Nat} (h : b ≠ a) :
    (m.insert a v).read b = m.read b := by
  induction m with
  | nil => simp [Memory.insert, Memory.read, Ne.symm h]
  | cons c t ih =>
    by_cases hc : c.1 < a <;> simp [Memory.insert, Memory.read, hc, ih, Ne.symm h]

theorem Memory.read_insert_self (m : Memory) (a : Nat) (v : Byte) (h : ∀ c ∈ m, c.1 ≠ a) :
    (m.insert a v).read a = v := by
  induction m with
  | nil => simp [Memory.insert, Memory.read]
  | cons c t ih =>
    by_cases hc : c.1 < a
    · have : c.1 ≠ a := by omega
      simp [Memory.insert, Memory.read, hc, this, ih fun d hd => h d (List.mem_cons_of_mem _ hd)]
    · simp [Memory.insert, Memory.read, hc]

theorem Memory.mem_erase {m : Memory} {a : Nat} {c : Host.Cell} : c ∈ m.erase a ↔ c ∈ m ∧ c.1 ≠ a := by
  simp [Memory.erase]

/-- A read of the address just written gives the byte written. -/
@[simp] theorem Memory.read_write_self (m : Memory) (a : Nat) (v : Byte) : (m.write a v).read a = v := by
  by_cases hv : v = unlisted
  · simp [Memory.write, hv, Memory.read_erase_self]
  · simp only [Memory.write, if_neg hv]
    exact Memory.read_insert_self _ _ _ fun c hc => (Memory.mem_erase.mp hc).2

/-- A write leaves every other address as it was. -/
theorem Memory.read_write_of_ne (m : Memory) (v : Byte) {a b : Nat} (h : b ≠ a) :
    (m.write a v).read b = m.read b := by
  by_cases hv : v = unlisted
  · simp [Memory.write, hv, Memory.read_erase_of_ne m h]
  · simp [Memory.write, hv, Memory.read_insert_of_ne _ v h, Memory.read_erase_of_ne m h]

theorem Memory.read_write (m : Memory) (a b : Nat) (v : Byte) :
    (m.write a v).read b = if b = a then v else m.read b := by
  by_cases h : b = a
  · simp [h]
  · simp [h, Memory.read_write_of_ne m v h]

theorem Memory.mem_insert {m : Memory} {a : Nat} {v : Byte} {c : Host.Cell} :
    c ∈ m.insert a v ↔ c = (a, v) ∨ c ∈ m := by
  induction m with
  | nil => simp [Memory.insert]
  | cons d t ih =>
    by_cases hd : d.1 < a
    · simp [Memory.insert, hd, ih, or_left_comm]
    · simp [Memory.insert, hd]

theorem Memory.insert_pairwise {m : Memory} {a : Nat} {v : Byte} (hm : m.Pairwise fun c d => c.1 < d.1)
    (ha : ∀ c ∈ m, c.1 ≠ a) : (m.insert a v).Pairwise fun c d => c.1 < d.1 := by
  induction m with
  | nil => simp [Memory.insert]
  | cons c t ih =>
    obtain ⟨hc, ht⟩ := List.pairwise_cons.mp hm
    have hca := ha c (List.mem_cons_self ..)
    by_cases h : c.1 < a
    · simp only [Memory.insert, if_pos h, List.pairwise_cons]
      refine ⟨fun d hd => ?_, ih ht fun d hd => ha d (List.mem_cons_of_mem _ hd)⟩
      rcases Memory.mem_insert.mp hd with rfl | hd
      · exact h
      · exact hc d hd
    · simp only [Memory.insert, if_neg h, List.pairwise_cons]
      refine ⟨fun d hd => ?_, hc, ht⟩
      rcases List.mem_cons.mp hd with rfl | hd
      · show a < d.1
        omega
      · have := hc d hd
        show a < d.1
        omega

theorem Memory.wf_nil (n : Nat) : Memory.wf n [] := by simp [Memory.wf]

theorem Memory.wf_erase {n : Nat} {m : Memory} (h : m.wf n) (a : Nat) : (m.erase a).wf n :=
  ⟨h.1.filter _, fun c hc => h.2 c (Memory.mem_erase.mp hc).1⟩

/-- Every write inside the memory keeps the canonical form. -/
theorem Memory.wf_write {n a : Nat} {m : Memory} (h : m.wf n) (ha : a < n) (v : Byte) : (m.write a v).wf n := by
  by_cases hv : v = unlisted
  · simpa [Memory.write, hv] using Memory.wf_erase h a
  · simp only [Memory.write, if_neg hv]
    have he := Memory.wf_erase h a
    refine ⟨Memory.insert_pairwise he.1 fun c hc => (Memory.mem_erase.mp hc).2, fun c hc => ?_⟩
    rcases Memory.mem_insert.mp hc with rfl | hc
    · exact ⟨ha, hv⟩
    · exact he.2 c hc

/-- An address outside the memory reads as an unlisted one. -/
theorem Memory.read_of_le {n a : Nat} {m : Memory} (h : m.wf n) (ha : n ≤ a) : m.read a = unlisted := by
  obtain ⟨-, h⟩ := h
  induction m with
  | nil => rfl
  | cons c t ih =>
    have h1 := (h c (List.mem_cons_self ..)).1
    have : c.1 ≠ a := by omega
    simp [Memory.read, this, ih fun d hd => h d (List.mem_cons_of_mem _ hd)]

/-- In the canonical form, memories that read alike are the same data. -/
theorem Memory.ext_read {n : Nat} {m m' : Memory} (h : m.wf n) (h' : m'.wf n) (e : ∀ a, m.read a = m'.read a) :
    m = m' := by
  have below : ∀ {l : Memory} {c : Host.Cell} {a : Nat}, (∀ d ∈ l, c.1 < d.1) → a ≤ c.1 → Memory.read l a = unlisted := by
    intro l c a hl ha
    induction l with
    | nil => rfl
    | cons d t ih =>
      have h1 := hl d (List.mem_cons_self ..)
      have : d.1 ≠ a := by omega
      simp [Memory.read, this, ih fun x hx => hl x (List.mem_cons_of_mem _ hx)]
  induction m generalizing m' with
  | nil =>
    cases m' with
    | nil => rfl
    | cons d t =>
      have hd := (h'.2 d (List.mem_cons_self ..)).2
      exact absurd (by simpa [Memory.read] using (e d.1).symm) hd
  | cons c t ih =>
    cases m' with
    | nil =>
      have hc := (h.2 c (List.mem_cons_self ..)).2
      exact absurd (by simpa [Memory.read] using e c.1) hc
    | cons d u =>
      obtain ⟨hct, hpt⟩ := List.pairwise_cons.mp h.1
      obtain ⟨hdu, hpu⟩ := List.pairwise_cons.mp h'.1
      have hc := (h.2 c (List.mem_cons_self ..)).2
      have hd := (h'.2 d (List.mem_cons_self ..)).2
      have h1 : c.1 = d.1 := by
        rcases Nat.lt_trichotomy c.1 d.1 with hlt | heq | hgt
        · have hne : d.1 ≠ c.1 := by omega
          have := e c.1
          simp only [Memory.read, if_true, if_neg hne, below hdu (Nat.le_of_lt hlt)] at this
          exact absurd this hc
        · exact heq
        · have hne : c.1 ≠ d.1 := by omega
          have := e d.1
          simp only [Memory.read, if_true, if_neg hne, below hct (Nat.le_of_lt hgt)] at this
          exact absurd this.symm hd
      have h2 : c.2 = d.2 := by simpa [Memory.read, h1] using e c.1
      have hcd : c = d := Prod.ext h1 h2
      subst hcd
      congr 1
      refine ih ⟨hpt, fun x hx => h.2 x (List.mem_cons_of_mem _ hx)⟩ ⟨hpu, fun x hx => h'.2 x (List.mem_cons_of_mem _ hx)⟩
        fun a => ?_
      by_cases ha : c.1 = a
      · rw [← ha, below hct (Nat.le_refl _), below hdu (Nat.le_refl _)]
      · simpa [Memory.read, ha] using e a

end Sys2Proof.Machine
end

