-- ==== Sys2Proof/Laws/State.lean ====
section
/-! SUPPORT. One lemma for each field after each primitive update of the state, so that no proof unfolds a record update. -/

namespace Sys2Proof.Machine

@[simp] theorem emit_buf (e : OutEvent) (s : State) : (emit e s).buf = s.buf := rfl
@[simp] theorem emit_wr (e : OutEvent) (s : State) : (emit e s).wr = s.wr := rfl
@[simp] theorem emit_rd (e : OutEvent) (s : State) : (emit e s).rd = s.rd := rfl
@[simp] theorem emit_snap (e : OutEvent) (s : State) : (emit e s).snap = s.snap := rfl
@[simp] theorem emit_busy (e : OutEvent) (s : State) : (emit e s).busy = s.busy := rfl
@[simp] theorem emit_updated (e : OutEvent) (s : State) : (emit e s).updated = s.updated := rfl
@[simp] theorem emit_ptype (e : OutEvent) (s : State) : (emit e s).ptype = s.ptype := rfl
@[simp] theorem emit_plen (e : OutEvent) (s : State) : (emit e s).plen = s.plen := rfl
@[simp] theorem emit_pkt (e : OutEvent) (s : State) : (emit e s).pkt = s.pkt := rfl
@[simp] theorem emit_esc (e : OutEvent) (s : State) : (emit e s).esc = s.esc := rfl
@[simp] theorem emit_skip (e : OutEvent) (s : State) : (emit e s).skip = s.skip := rfl
@[simp] theorem emit_link (e : OutEvent) (s : State) : (emit e s).link = s.link := rfl
@[simp] theorem emit_age (e : OutEvent) (s : State) : (emit e s).age = s.age := rfl
@[simp] theorem emit_cd (e : OutEvent) (s : State) : (emit e s).cd = s.cd := rfl
@[simp] theorem emit_explen (e : OutEvent) (s : State) : (emit e s).explen = s.explen := rfl
@[simp] theorem emit_remaining (e : OutEvent) (s : State) : (emit e s).remaining = s.remaining := rfl
@[simp] theorem emit_recordSync (e : OutEvent) (s : State) : (emit e s).recordSync = s.recordSync := rfl
@[simp] theorem emit_magLocked (e : OutEvent) (s : State) : (emit e s).magLocked = s.magLocked := rfl
@[simp] theorem emit_curTs (e : OutEvent) (s : State) : (emit e s).curTs = s.curTs := rfl
@[simp] theorem emit_syncTs (e : OutEvent) (s : State) : (emit e s).syncTs = s.syncTs := rfl
@[simp] theorem emit_params (e : OutEvent) (s : State) : (emit e s).params = s.params := rfl
@[simp] theorem emit_input (e : OutEvent) (s : State) : (emit e s).input = s.input := rfl
@[simp] theorem emit_trace (e : OutEvent) (s : State) : (emit e s).trace = s.trace ++ [e] := rfl

@[simp] theorem writeRing_buf (i v : Byte) (s : State) : (writeRing i v s).buf = s.buf.write i.toNat v := rfl
@[simp] theorem writeRing_wr (i v : Byte) (s : State) : (writeRing i v s).wr = s.wr := rfl
@[simp] theorem writeRing_rd (i v : Byte) (s : State) : (writeRing i v s).rd = s.rd := rfl
@[simp] theorem writeRing_snap (i v : Byte) (s : State) : (writeRing i v s).snap = s.snap := rfl
@[simp] theorem writeRing_busy (i v : Byte) (s : State) : (writeRing i v s).busy = s.busy := rfl
@[simp] theorem writeRing_updated (i v : Byte) (s : State) : (writeRing i v s).updated = s.updated := rfl
@[simp] theorem writeRing_ptype (i v : Byte) (s : State) : (writeRing i v s).ptype = s.ptype := rfl
@[simp] theorem writeRing_plen (i v : Byte) (s : State) : (writeRing i v s).plen = s.plen := rfl
@[simp] theorem writeRing_pkt (i v : Byte) (s : State) : (writeRing i v s).pkt = s.pkt := rfl
@[simp] theorem writeRing_esc (i v : Byte) (s : State) : (writeRing i v s).esc = s.esc := rfl
@[simp] theorem writeRing_skip (i v : Byte) (s : State) : (writeRing i v s).skip = s.skip := rfl
@[simp] theorem writeRing_link (i v : Byte) (s : State) : (writeRing i v s).link = s.link := rfl
@[simp] theorem writeRing_age (i v : Byte) (s : State) : (writeRing i v s).age = s.age := rfl
@[simp] theorem writeRing_cd (i v : Byte) (s : State) : (writeRing i v s).cd = s.cd := rfl
@[simp] theorem writeRing_explen (i v : Byte) (s : State) : (writeRing i v s).explen = s.explen := rfl
@[simp] theorem writeRing_remaining (i v : Byte) (s : State) : (writeRing i v s).remaining = s.remaining := rfl
@[simp] theorem writeRing_recordSync (i v : Byte) (s : State) : (writeRing i v s).recordSync = s.recordSync := rfl
@[simp] theorem writeRing_magLocked (i v : Byte) (s : State) : (writeRing i v s).magLocked = s.magLocked := rfl
@[simp] theorem writeRing_curTs (i v : Byte) (s : State) : (writeRing i v s).curTs = s.curTs := rfl
@[simp] theorem writeRing_syncTs (i v : Byte) (s : State) : (writeRing i v s).syncTs = s.syncTs := rfl
@[simp] theorem writeRing_params (i v : Byte) (s : State) : (writeRing i v s).params = s.params := rfl
@[simp] theorem writeRing_input (i v : Byte) (s : State) : (writeRing i v s).input = s.input := rfl
@[simp] theorem writeRing_trace (i v : Byte) (s : State) : (writeRing i v s).trace = s.trace := rfl

@[simp] theorem advanceRd_buf (s : State) : (advanceRd s).buf = s.buf := rfl
@[simp] theorem advanceRd_wr (s : State) : (advanceRd s).wr = s.wr := rfl
@[simp] theorem advanceRd_rd (s : State) : (advanceRd s).rd = s.rd + 1 := rfl
@[simp] theorem advanceRd_snap (s : State) : (advanceRd s).snap = s.snap := rfl
@[simp] theorem advanceRd_busy (s : State) : (advanceRd s).busy = s.busy := rfl
@[simp] theorem advanceRd_updated (s : State) : (advanceRd s).updated = s.updated := rfl
@[simp] theorem advanceRd_ptype (s : State) : (advanceRd s).ptype = s.ptype := rfl
@[simp] theorem advanceRd_plen (s : State) : (advanceRd s).plen = s.plen := rfl
@[simp] theorem advanceRd_pkt (s : State) : (advanceRd s).pkt = s.pkt := rfl
@[simp] theorem advanceRd_esc (s : State) : (advanceRd s).esc = s.esc := rfl
@[simp] theorem advanceRd_skip (s : State) : (advanceRd s).skip = s.skip := rfl
@[simp] theorem advanceRd_link (s : State) : (advanceRd s).link = s.link := rfl
@[simp] theorem advanceRd_age (s : State) : (advanceRd s).age = s.age := rfl
@[simp] theorem advanceRd_cd (s : State) : (advanceRd s).cd = s.cd := rfl
@[simp] theorem advanceRd_explen (s : State) : (advanceRd s).explen = s.explen := rfl
@[simp] theorem advanceRd_remaining (s : State) : (advanceRd s).remaining = s.remaining := rfl
@[simp] theorem advanceRd_recordSync (s : State) : (advanceRd s).recordSync = s.recordSync := rfl
@[simp] theorem advanceRd_magLocked (s : State) : (advanceRd s).magLocked = s.magLocked := rfl
@[simp] theorem advanceRd_curTs (s : State) : (advanceRd s).curTs = s.curTs := rfl
@[simp] theorem advanceRd_syncTs (s : State) : (advanceRd s).syncTs = s.syncTs := rfl
@[simp] theorem advanceRd_params (s : State) : (advanceRd s).params = s.params := rfl
@[simp] theorem advanceRd_input (s : State) : (advanceRd s).input = s.input := rfl
@[simp] theorem advanceRd_trace (s : State) : (advanceRd s).trace = s.trace := rfl

@[simp] theorem pktReset_buf (s : State) : (pktReset s).buf = s.buf := rfl
@[simp] theorem pktReset_wr (s : State) : (pktReset s).wr = s.wr := rfl
@[simp] theorem pktReset_rd (s : State) : (pktReset s).rd = s.rd := rfl
@[simp] theorem pktReset_snap (s : State) : (pktReset s).snap = s.snap := rfl
@[simp] theorem pktReset_busy (s : State) : (pktReset s).busy = s.busy := rfl
@[simp] theorem pktReset_updated (s : State) : (pktReset s).updated = s.updated := rfl
@[simp] theorem pktReset_ptype (s : State) : (pktReset s).ptype = .unknown := rfl
@[simp] theorem pktReset_plen (s : State) : (pktReset s).plen = 0 := rfl
@[simp] theorem pktReset_pkt (s : State) : (pktReset s).pkt = s.pkt := rfl
@[simp] theorem pktReset_esc (s : State) : (pktReset s).esc = false := rfl
@[simp] theorem pktReset_skip (s : State) : (pktReset s).skip = s.skip := rfl
@[simp] theorem pktReset_link (s : State) : (pktReset s).link = s.link := rfl
@[simp] theorem pktReset_age (s : State) : (pktReset s).age = s.age := rfl
@[simp] theorem pktReset_cd (s : State) : (pktReset s).cd = s.cd := rfl
@[simp] theorem pktReset_explen (s : State) : (pktReset s).explen = s.explen := rfl
@[simp] theorem pktReset_remaining (s : State) : (pktReset s).remaining = s.remaining := rfl
@[simp] theorem pktReset_recordSync (s : State) : (pktReset s).recordSync = s.recordSync := rfl
@[simp] theorem pktReset_magLocked (s : State) : (pktReset s).magLocked = s.magLocked := rfl
@[simp] theorem pktReset_curTs (s : State) : (pktReset s).curTs = s.curTs := rfl
@[simp] theorem pktReset_syncTs (s : State) : (pktReset s).syncTs = s.syncTs := rfl
@[simp] theorem pktReset_params (s : State) : (pktReset s).params = s.params := rfl
@[simp] theorem pktReset_input (s : State) : (pktReset s).input = s.input := rfl
@[simp] theorem pktReset_trace (s : State) : (pktReset s).trace = s.trace := rfl

@[simp] theorem presentNext_buf (w : EventWord) (s : State) : (presentNext w s).buf = s.buf := rfl
@[simp] theorem presentNext_wr (w : EventWord) (s : State) : (presentNext w s).wr = s.wr := rfl
@[simp] theorem presentNext_rd (w : EventWord) (s : State) : (presentNext w s).rd = s.rd := rfl
@[simp] theorem presentNext_snap (w : EventWord) (s : State) : (presentNext w s).snap = s.snap := rfl
@[simp] theorem presentNext_busy (w : EventWord) (s : State) : (presentNext w s).busy = s.busy := rfl
@[simp] theorem presentNext_updated (w : EventWord) (s : State) : (presentNext w s).updated = s.updated := rfl
@[simp] theorem presentNext_ptype (w : EventWord) (s : State) : (presentNext w s).ptype = s.ptype := rfl
@[simp] theorem presentNext_plen (w : EventWord) (s : State) : (presentNext w s).plen = s.plen := rfl
@[simp] theorem presentNext_pkt (w : EventWord) (s : State) : (presentNext w s).pkt = s.pkt := rfl
@[simp] theorem presentNext_esc (w : EventWord) (s : State) : (presentNext w s).esc = s.esc := rfl
@[simp] theorem presentNext_skip (w : EventWord) (s : State) : (presentNext w s).skip = s.skip := rfl
@[simp] theorem presentNext_link (w : EventWord) (s : State) : (presentNext w s).link = s.link := rfl
@[simp] theorem presentNext_age (w : EventWord) (s : State) : (presentNext w s).age = s.age := rfl
@[simp] theorem presentNext_cd (w : EventWord) (s : State) : (presentNext w s).cd = s.cd := rfl
@[simp] theorem presentNext_explen (w : EventWord) (s : State) : (presentNext w s).explen = s.explen := rfl
@[simp] theorem presentNext_remaining (w : EventWord) (s : State) : (presentNext w s).remaining = s.remaining := rfl
@[simp] theorem presentNext_recordSync (w : EventWord) (s : State) : (presentNext w s).recordSync = s.recordSync := rfl
@[simp] theorem presentNext_magLocked (w : EventWord) (s : State) : (presentNext w s).magLocked = s.magLocked := rfl
@[simp] theorem presentNext_curTs (w : EventWord) (s : State) : (presentNext w s).curTs = s.curTs := rfl
@[simp] theorem presentNext_syncTs (w : EventWord) (s : State) : (presentNext w s).syncTs = s.syncTs := rfl
@[simp] theorem presentNext_params (w : EventWord) (s : State) : (presentNext w s).params = s.params := rfl
@[simp] theorem presentNext_input (w : EventWord) (s : State) : (presentNext w s).input = w :: s.input := rfl
@[simp] theorem presentNext_trace (w : EventWord) (s : State) : (presentNext w s).trace = s.trace := rfl

@[simp] theorem rxLink_buf (s : State) : (rxLink s).buf = s.buf := rfl
@[simp] theorem rxLink_wr (s : State) : (rxLink s).wr = s.wr := rfl
@[simp] theorem rxLink_rd (s : State) : (rxLink s).rd = s.rd := rfl
@[simp] theorem rxLink_snap (s : State) : (rxLink s).snap = s.snap := rfl
@[simp] theorem rxLink_busy (s : State) : (rxLink s).busy = s.busy := rfl
@[simp] theorem rxLink_updated (s : State) : (rxLink s).updated = s.updated := rfl
@[simp] theorem rxLink_ptype (s : State) : (rxLink s).ptype = s.ptype := rfl
@[simp] theorem rxLink_plen (s : State) : (rxLink s).plen = s.plen := rfl
@[simp] theorem rxLink_pkt (s : State) : (rxLink s).pkt = s.pkt := rfl
@[simp] theorem rxLink_esc (s : State) : (rxLink s).esc = s.esc := rfl
@[simp] theorem rxLink_skip (s : State) : (rxLink s).skip = s.skip := rfl
@[simp] theorem rxLink_link (s : State) : (rxLink s).link = if s.link = .unavailable then .syncing else s.link := rfl
@[simp] theorem rxLink_age (s : State) : (rxLink s).age = 0 := rfl
@[simp] theorem rxLink_cd (s : State) : (rxLink s).cd = s.cd := rfl
@[simp] theorem rxLink_explen (s : State) : (rxLink s).explen = s.explen := rfl
@[simp] theorem rxLink_remaining (s : State) : (rxLink s).remaining = s.remaining := rfl
@[simp] theorem rxLink_recordSync (s : State) : (rxLink s).recordSync = s.recordSync := rfl
@[simp] theorem rxLink_magLocked (s : State) : (rxLink s).magLocked = s.magLocked := rfl
@[simp] theorem rxLink_curTs (s : State) : (rxLink s).curTs = s.curTs := rfl
@[simp] theorem rxLink_syncTs (s : State) : (rxLink s).syncTs = s.syncTs := rfl
@[simp] theorem rxLink_params (s : State) : (rxLink s).params = s.params := rfl
@[simp] theorem rxLink_input (s : State) : (rxLink s).input = s.input := rfl
@[simp] theorem rxLink_trace (s : State) : (rxLink s).trace = s.trace := rfl

@[simp] theorem skipByte_buf (s : State) : (skipByte s).buf = s.buf := rfl
@[simp] theorem skipByte_wr (s : State) : (skipByte s).wr = s.wr := rfl
@[simp] theorem skipByte_rd (s : State) : (skipByte s).rd = s.rd + 1 := rfl
@[simp] theorem skipByte_snap (s : State) : (skipByte s).snap = s.snap := rfl
@[simp] theorem skipByte_busy (s : State) : (skipByte s).busy = s.busy := rfl
@[simp] theorem skipByte_updated (s : State) : (skipByte s).updated = s.updated := rfl
@[simp] theorem skipByte_ptype (s : State) : (skipByte s).ptype = s.ptype := rfl
@[simp] theorem skipByte_plen (s : State) : (skipByte s).plen = s.plen := rfl
@[simp] theorem skipByte_pkt (s : State) : (skipByte s).pkt = s.pkt := rfl
@[simp] theorem skipByte_esc (s : State) : (skipByte s).esc = s.esc := rfl
@[simp] theorem skipByte_skip (s : State) : (skipByte s).skip = sat255 (s.skip.toNat + 1) := rfl
@[simp] theorem skipByte_link (s : State) : (skipByte s).link = s.link := rfl
@[simp] theorem skipByte_age (s : State) : (skipByte s).age = s.age := rfl
@[simp] theorem skipByte_cd (s : State) : (skipByte s).cd = s.cd := rfl
@[simp] theorem skipByte_explen (s : State) : (skipByte s).explen = s.explen := rfl
@[simp] theorem skipByte_remaining (s : State) : (skipByte s).remaining = s.remaining := rfl
@[simp] theorem skipByte_recordSync (s : State) : (skipByte s).recordSync = s.recordSync := rfl
@[simp] theorem skipByte_magLocked (s : State) : (skipByte s).magLocked = s.magLocked := rfl
@[simp] theorem skipByte_curTs (s : State) : (skipByte s).curTs = s.curTs := rfl
@[simp] theorem skipByte_syncTs (s : State) : (skipByte s).syncTs = s.syncTs := rfl
@[simp] theorem skipByte_params (s : State) : (skipByte s).params = s.params := rfl
@[simp] theorem skipByte_input (s : State) : (skipByte s).input = s.input := rfl
@[simp] theorem skipByte_trace (s : State) : (skipByte s).trace = s.trace := rfl

@[simp] theorem endPoll_buf (s : State) : (endPoll s).buf = s.buf := by unfold endPoll; split <;> rfl
@[simp] theorem endPoll_wr (s : State) : (endPoll s).wr = s.wr := by unfold endPoll; split <;> rfl
@[simp] theorem endPoll_rd (s : State) : (endPoll s).rd = s.rd := by unfold endPoll; split <;> rfl
@[simp] theorem endPoll_snap (s : State) : (endPoll s).snap = s.snap := by unfold endPoll; split <;> rfl
@[simp] theorem endPoll_busy (s : State) : (endPoll s).busy = false := by unfold endPoll; split <;> rfl
@[simp] theorem endPoll_updated (s : State) : (endPoll s).updated = s.updated := by unfold endPoll; split <;> rfl
@[simp] theorem endPoll_ptype (s : State) : (endPoll s).ptype = s.ptype := by unfold endPoll; split <;> rfl
@[simp] theorem endPoll_plen (s : State) : (endPoll s).plen = s.plen := by unfold endPoll; split <;> rfl
@[simp] theorem endPoll_pkt (s : State) : (endPoll s).pkt = s.pkt := by unfold endPoll; split <;> rfl
@[simp] theorem endPoll_esc (s : State) : (endPoll s).esc = s.esc := by unfold endPoll; split <;> rfl
@[simp] theorem endPoll_skip (s : State) : (endPoll s).skip = s.skip := by unfold endPoll; split <;> rfl
@[simp] theorem endPoll_link (s : State) : (endPoll s).link = s.link := by unfold endPoll; split <;> rfl
@[simp] theorem endPoll_age (s : State) : (endPoll s).age = s.age := by unfold endPoll; split <;> rfl
@[simp] theorem endPoll_cd (s : State) : (endPoll s).cd = s.cd := by unfold endPoll; split <;> rfl
@[simp] theorem endPoll_explen (s : State) : (endPoll s).explen = s.explen := by unfold endPoll; split <;> rfl
@[simp] theorem endPoll_remaining (s : State) : (endPoll s).remaining = s.remaining := by unfold endPoll; split <;> rfl
@[simp] theorem endPoll_recordSync (s : State) : (endPoll s).recordSync = s.recordSync := by unfold endPoll; split <;> rfl
@[simp] theorem endPoll_magLocked (s : State) : (endPoll s).magLocked = s.magLocked := by unfold endPoll; split <;> rfl
@[simp] theorem endPoll_curTs (s : State) : (endPoll s).curTs = s.curTs := by unfold endPoll; split <;> rfl
@[simp] theorem endPoll_syncTs (s : State) : (endPoll s).syncTs = s.syncTs := by unfold endPoll; split <;> rfl
@[simp] theorem endPoll_params (s : State) : (endPoll s).params = s.params := by unfold endPoll; split <;> rfl
@[simp] theorem endPoll_input (s : State) : (endPoll s).input = s.input := by unfold endPoll; split <;> rfl
@[simp] theorem endPoll_trace (s : State) : (endPoll s).trace = if s.updated then s.trace ++ [.status s.curTs s.link] else s.trace := by unfold endPoll; split <;> rfl

end Sys2Proof.Machine
end

