-- ==== Sys2Proof/Laws/Ops.lean ====
section
/-! SUPPORT. One lemma for each shared operation that says once what it can do, for the provers to cite. -/

namespace Sys2Proof.Machine

/-! ## Stores, poll end, window -/

/-- All a scratch store can do: it needs a cell, writes it, and counts it. -/
theorem storePkt_eq_some {v : Byte} {s t : State} :
    storePkt v s = some t ↔
      s.plen.toNat < pktCap ∧ t = { s with pkt := s.pkt.write s.plen.toNat v, plen := s.plen + 1 } := by
  unfold storePkt
  split
  · simp [*, eq_comm]
  · simp [*]

theorem plen_succ_toNat {n : BitVec 5} (h : n.toNat < pktCap) : (n + 1).toNat = n.toNat + 1 := by
  simp only [pktCap] at h
  rw [BitVec.toNat_add]
  simp
  omega

/-- END_POLL as one update. -/
theorem endPoll_eq (s : State) :
    endPoll s = { s with busy := false, trace := s.trace ++ statusOwed s.updated s.curTs s.link } := by
  unfold endPoll statusOwed
  split <;> simp_all [emit]

@[simp] theorem window_byte_zero (s : State) : (window s).byte 0 = s.buf.read s.rd.toNat := by simp [window, readRing]

@[simp] theorem window_byte_one (s : State) : (window s).byte 1 = s.buf.read (s.rd - 1).toNat := by
  simp [window, readRing]

@[simp] theorem window_byte_two (s : State) : (window s).byte 2 = s.buf.read (s.rd - 2).toNat := by
  simp [window, readRing]

@[simp] theorem window_byte_three (s : State) : (window s).byte 3 = s.buf.read (s.rd - 3).toNat := by
  simp [window, readRing]

/-- The raw bytes a debug event carries, when the last of them has just been stored. -/
theorem map_read_write_last (m : Memory) (n : Nat) (v : Byte) :
    (List.range (n + 1)).map (m.write n v).read = (List.range n).map m.read ++ [v] := by
  rw [List.range_succ, List.map_append]
  congr 1
  · refine List.map_congr_left fun a ha => Memory.read_write_of_ne m v ?_
    have := List.mem_range.mp ha
    omega
  · simp

theorem foldl_xor_eq (l : List Byte) (c : Byte) : l.foldl (· ^^^ ·) c = c ^^^ l.foldl (· ^^^ ·) 0 := by
  induction l generalizing c with
  | nil => simp
  | cons b t ih =>
    simp only [List.foldl_cons]
    rw [ih (c ^^^ b), ih (0 ^^^ b), BitVec.xor_assoc]
    simp

theorem xorFrom_eq_foldl (m : Memory) (n : Nat) : ∀ a,
    xorFrom m a n = ((List.range' a n).map m.read).foldl (· ^^^ ·) 0 := by
  induction n with
  | zero => intro a; rfl
  | succ n ih =>
    intro a
    rw [xorFrom, ih (a + 1), List.range'_succ, List.map_cons, List.foldl_cons,
      foldl_xor_eq _ (0 ^^^ m.read a)]
    simp

/-- The indices from `a` on, below `n`. -/
theorem filter_range_le (a n : Nat) : (List.range n).filter (fun i => a ≤ i) = List.range' a (n - a) := by
  induction n with
  | zero => simp
  | succ n ih =>
    rw [List.range_succ, List.filter_append, ih]
    by_cases h : a ≤ n
    · have h1 : n + 1 - a = (n - a) + 1 := by omega
      have h2 : a + (n - a) = n := by omega
      rw [h1, List.range'_1_concat, h2]
      simp [h]
    · have h1 : n + 1 - a = 0 := by omega
      have h2 : n - a = 0 := by omega
      simp [h, h1, h2]

/-- The checksum as the XOR of consecutive bytes (30_encoding R75). -/
theorem checksum_eq_xorFrom (s : State) (n : Nat) :
    checksum s n = xorFrom s.pkt s.params.mgCsumStart (n - 2 - s.params.mgCsumStart) := by
  rw [xorFrom_eq_foldl, ← filter_range_le, checksum, List.foldl_map]

/-- The XOR of a range does not see a write outside it. -/
theorem xorFrom_write_of_not_mem (m : Memory) (v : Byte) (k n : Nat) : ∀ a, k < a ∨ a + n ≤ k →
    xorFrom (m.write k v) a n = xorFrom m a n := by
  induction n with
  | zero => intro a _; rfl
  | succ n ih =>
    intro a h
    rw [xorFrom, xorFrom, Memory.read_write_of_ne m v (by omega), ih (a + 1) (by omega)]

/-! ## Countdown, acceptance -/

/-- COUNTDOWN_STEP as one update. -/
theorem countdownStep_eq (s : State) :
    countdownStep s =
      if s.remaining = 1 then { s with remaining := s.explen, recordSync := true, trace := s.trace ++ [.trigger] }
      else { s with remaining := s.remaining - 1 } := by
  have h : s.remaining - 1 = 0 ↔ s.remaining = 1 := by
    constructor
    · intro h
      simpa using (BitVec.sub_eq_iff_eq_add).mp h
    · intro h
      rw [h]
      rfl
  unfold countdownStep emit
  simp only [h]

/-- LATCH_SYNC as one update. -/
theorem latchSync_eq (s : State) :
    latchSync s =
      if s.recordSync then { s with syncTs := s.curTs, recordSync := false, trace := s.trace ++ [.syncTs s.curTs] } else s :=
  rfl

/-- CD_ON_TS changes CD, REMAINING, RECORD_SYNC and the trace only. -/
theorem cdOnTs_frame (ts : Timestamp) (s : State) :
    cdOnTs ts s =
      { s with cd := (cdOnTs ts s).cd, remaining := (cdOnTs ts s).remaining, recordSync := (cdOnTs ts s).recordSync,
               trace := (cdOnTs ts s).trace } := by
  unfold cdOnTs missedPulse
  split
  · split
    · rfl
    · rw [countdownStep_eq]; split <;> rfl
    · split <;> rfl
  · rfl

/-- ACCEPT_TS changes CUR_TS, LINK, the countdown, the latch, UPDATED and the trace only. -/
theorem acceptTs_frame (ts : Timestamp) (s : State) :
    acceptTs ts s =
      { s with curTs := ts, link := .active, cd := (acceptTs ts s).cd, remaining := (acceptTs ts s).remaining,
               recordSync := (acceptTs ts s).recordSync, syncTs := (acceptTs ts s).syncTs, updated := true,
               trace := (acceptTs ts s).trace } := by
  unfold acceptTs
  rw [latchSync_eq, cdOnTs_frame]
  split <;> rfl

/-- MG_STATUS_ACCEPT changes MAG_LOCKED, CUR_TS and UPDATED only. -/
theorem mgStatusAccept_frame (s : State) :
    mgStatusAccept s =
      { s with magLocked := (mgStatusAccept s).magLocked, curTs := (mgStatusAccept s).curTs,
               updated := (mgStatusAccept s).updated } := by
  unfold mgStatusAccept
  dsimp only
  split <;> rfl

/-- MG_TIME_ACCEPT changes what ACCEPT_TS changes. -/
theorem mgTimeAccept_frame (s : State) :
    mgTimeAccept s =
      { s with curTs := (mgTimeAccept s).curTs, link := (mgTimeAccept s).link, cd := (mgTimeAccept s).cd,
               remaining := (mgTimeAccept s).remaining, recordSync := (mgTimeAccept s).recordSync,
               syncTs := (mgTimeAccept s).syncTs, updated := (mgTimeAccept s).updated,
               trace := (mgTimeAccept s).trace } := by
  unfold mgTimeAccept
  split
  · rfl
  · rename_i ts _
    have h := acceptTs_frame ts s
    rw [h]

/-! ## The decoder steps -/

/-- The match of the synchronizer as one update (41_synchronizer R104). -/
theorem recognise_eq (c : PacketClass) (s : State) :
    recognise c s =
      { s with rd := s.rd - rewind c, skip := 0, ptype := .known c, plen := 0, esc := false,
               trace := s.trace ++ if skipNoticed s.params s.skip then [.dbgSkip s.skip] else [] } := by
  unfold recognise
  split <;> simp [emit]

/-- What TB_FINISH leaves: the packet in progress reset and the poll call ended; the rest as acceptance or the report
left it. -/
theorem tbFinish_frame (s : State) :
    tbFinish s =
      { s with busy := false, updated := (tbFinish s).updated, ptype := .unknown, plen := 0, esc := false,
               link := (tbFinish s).link, cd := (tbFinish s).cd, remaining := (tbFinish s).remaining,
               recordSync := (tbFinish s).recordSync, curTs := (tbFinish s).curTs, syncTs := (tbFinish s).syncTs,
               trace := (tbFinish s).trace } := by
  unfold tbFinish
  split
  · rw [acceptTs_frame, endPoll_eq]; rfl
  · rw [endPoll_eq]; rfl

/-- What MG_FINISH leaves: the packet in progress reset and the poll call ended; the rest as acceptance or the report
left it. -/
theorem mgFinish_frame (c : PacketClass) (s : State) :
    mgFinish c s =
      { s with busy := false, updated := (mgFinish c s).updated, ptype := .unknown, plen := 0, esc := false,
               link := (mgFinish c s).link, cd := (mgFinish c s).cd, remaining := (mgFinish c s).remaining,
               recordSync := (mgFinish c s).recordSync, magLocked := (mgFinish c s).magLocked,
               curTs := (mgFinish c s).curTs, syncTs := (mgFinish c s).syncTs, trace := (mgFinish c s).trace } := by
  unfold mgFinish
  dsimp only
  split
  · rw [endPoll_eq]; rfl
  · split
    · rw [endPoll_eq]; rfl
    · split
      · rw [mgStatusAccept_frame, endPoll_eq]; rfl
      · rw [mgTimeAccept_frame, endPoll_eq]; rfl

/-- All STORE_TB can do (42_trimble_decoder R117). -/
theorem storeTb_eq {v : Byte} {s : State} (h : s.plen.toNat < pktCap) :
    storeTb v s =
      let t : State := { s with pkt := s.pkt.write s.plen.toNat v, plen := s.plen + 1 }
      if s.plen.toNat = 20 then some (tbFinish t, true) else some (t, false) := by
  have hs : storePkt v s = some { s with pkt := s.pkt.write s.plen.toNat v, plen := s.plen + 1 } :=
    storePkt_eq_some.mpr ⟨h, rfl⟩
  have h1 := plen_succ_toNat h
  simp only [storeTb, hs, h1, tbLen]
  by_cases h2 : s.plen.toNat = 20
  · simp [h2]
  · have h3 : ¬ s.plen.toNat + 1 = 21 := by omega
    simp [h2, h3]

/-- All the Magellan decoder's step can do (43_magellan_decoder R131). -/
theorem magellanStep_eq {c : PacketClass} {s : State} (h : s.plen.toNat < pktCap) :
    magellanStep c s =
      let t : State :=
        { s with rd := s.rd + 1, pkt := s.pkt.write s.plen.toNat (s.buf.read s.rd.toNat), plen := s.plen + 1 }
      .next (if s.plen.toNat + 1 = frameLen c then mgFinish c t else t) := by
  have hs : storePkt (readRing s s.rd) (advanceRd s) =
      some { s with rd := s.rd + 1, pkt := s.pkt.write s.plen.toNat (s.buf.read s.rd.toNat), plen := s.plen + 1 } :=
    storePkt_eq_some.mpr ⟨h, rfl⟩
  have h1 := plen_succ_toNat h
  simp only [magellanStep, hs, h1]

/-- All the Trimble decoder's step can do (42_trimble_decoder R116), from a scratch that still has a cell. -/
theorem trimbleStep_cases {s : State} (h : s.plen.toNat < pktCap) :
    let b := s.buf.read s.rd.toNat
    let dle := s.params.dle
    let n := s.plen.toNat
    (s.esc = false ∧ b = dle ∧ trimbleStep s = .next { s with rd := s.rd + 1, esc := true }) ∨
    (s.esc = false ∧ b ≠ dle ∧
      trimbleStep s =
        let t : State := { s with rd := s.rd + 1, pkt := s.pkt.write n b, plen := s.plen + 1 }
        .next (if n = 20 then tbFinish t else t)) ∨
    (s.esc = true ∧ b = dle ∧
      trimbleStep s =
        let t : State := { s with rd := s.rd + 1, esc := false, pkt := s.pkt.write n dle, plen := s.plen + 1 }
        .next (if n = 20 then tbFinish t else t)) ∨
    (s.esc = true ∧ b ≠ dle ∧ n = 20 ∧
      trimbleStep s = .next (tbFinish { s with esc := false, pkt := s.pkt.write n dle, plen := s.plen + 1 })) ∨
    (s.esc = true ∧ b ≠ dle ∧ n < 20 ∧
      trimbleStep s =
        let t : State :=
          { s with rd := s.rd + 1, esc := false, pkt := (s.pkt.write n dle).write (n + 1) b, plen := s.plen + 1 + 1 }
        .next (if n = 19 then tbFinish t else t)) := by
  intro b dle n
  have hb : readRing s s.rd = b := rfl
  have step1 : ∀ (v : Byte) (t : State), t.plen = s.plen →
      storeResult (storeTb v t) =
        let u : State := { t with pkt := t.pkt.write t.plen.toNat v, plen := t.plen + 1 }
        .next (if t.plen.toNat = 20 then tbFinish u else u) := by
    intro v t ht
    rw [storeTb_eq (by rw [ht]; exact h)]
    dsimp only
    split <;> rfl
  cases he : s.esc with
  | false =>
    by_cases hd : b = dle
    · refine .inl ⟨rfl, hd, ?_⟩
      unfold trimbleStep
      simp only [hb, he]
      simp [hd, dle, advanceRd]
    · refine .inr (.inl ⟨rfl, hd, ?_⟩)
      unfold trimbleStep
      simp only [hb, he]
      rw [if_neg (by simp), if_neg hd]
      simpa [advanceRd, he, n] using step1 b (advanceRd s) rfl
  | true =>
    by_cases hd : b = dle
    · refine .inr (.inr (.inl ⟨rfl, hd, ?_⟩))
      unfold trimbleStep
      simp only [hb, he]
      rw [if_pos trivial, if_pos hd]
      exact step1 dle (advanceRd { s with esc := false }) rfl
    · by_cases h20 : n = 20
      · refine .inr (.inr (.inr (.inl ⟨rfl, hd, h20, ?_⟩)))
        unfold trimbleStep
        simp only [hb, he]
        rw [if_pos trivial, if_neg hd, storeTb_eq (s := { s with esc := false }) h]
        dsimp only
        rw [if_pos h20]
      · have hlt : n < 20 := by
          have : n < 21 := h
          omega
        refine .inr (.inr (.inr (.inr ⟨rfl, hd, hlt, ?_⟩)))
        unfold trimbleStep
        simp only [hb, he]
        rw [if_pos trivial, if_neg hd, storeTb_eq (s := { s with esc := false }) h]
        dsimp only
        rw [if_neg h20]
        dsimp only
        have hp := plen_succ_toNat h
        rw [storeTb_eq (by simp only [advanceRd_plen, pktCap]; omega)]
        dsimp only
        simp only [advanceRd_plen, advanceRd_pkt, hp]
        have h19 : n + 1 = 20 ↔ n = 19 := by omega
        by_cases hn : n = 19
        · rw [if_pos (by omega), if_pos hn]; rfl
        · rw [if_neg (by omega), if_neg hn]; rfl

/-! ## The look-behind of a batch -/

/-- Stores in the ring change the ring alone. -/
theorem writeRingFrom_eq (i : Byte) (bytes : List Byte) (s : State) :
    writeRingFrom i bytes s = { s with buf := (writeRingFrom i bytes s).buf } := by
  induction bytes generalizing i s with
  | nil => rfl
  | cons b rest ih => exact ih (i + 1) (writeRing i b s)

theorem writeRingFrom_ringOk (i : Byte) (bytes : List Byte) {s : State} (h : s.ringOk) :
    (writeRingFrom i bytes s).ringOk := by
  induction bytes generalizing i s with
  | nil => exact h
  | cons b rest ih => exact ih (i + 1) (Memory.wf_write h i.isLt b)

/-- A batch of at most 253 bytes leaves the look-behind of its first byte alone. -/
theorem lookBehindOf_short {bytes : List Byte} (h : bytes.length ≤ 253) (s : State) : lookBehindOf bytes s = s := by
  rw [lookBehindOf, List.drop_eq_nil_of_le h]
  rfl

/-! ## The bound on AGE -/

theorem bytesBehind_le (s : State) : bytesBehind s ≤ 2 := by
  unfold bytesBehind
  split
  · split
    · omega
    · split <;> omega
  · omega

/-- A full ring and the packet in progress hold at most 270 bytes of frames. -/
theorem frameBytes_le {s : State} (h : s.lengthBelowFrame) : frameBytes s ≤ 270 := by
  have hu := (s.wr - s.rd).isLt
  have hb := bytesBehind_le s
  have he : s.esc.toNat ≤ 1 := by cases s.esc <;> decide
  unfold State.lengthBelowFrame at h
  unfold frameBytes
  rcases hp : s.ptype with _ | c
  · dsimp only; omega
  · rw [hp] at h
    cases c <;> simp only [frameLen, mgLenTime, mgLenStatus, tbLen] at h ⊢ <;> omega

/-- No state with the invariant has more late frames to come than the bound allows. -/
theorem lateFrames_le {s : State} (h : s.lengthBelowFrame) : lateFrames s ≤ maxLateFrames s.params := by
  have hf := frameBytes_le h
  unfold lateFrames maxLateFrames bytesPerFrame
  split
  · exact le_refl _
  · split <;> omega

end Sys2Proof.Machine
end

