-- ==== Sys2Proof/Laws/PerInstr.lean ====
section
/-! SUPPORT. The one family of statements made for every instruction: its encoding at P0 lies in its own row of the opcode
table (spec 30_encoding R62, R68). -/

namespace Sys2Proof.Laws.EncodesRow

/-- The encoding of the instruction at P0 lies in the row that bears its mnemonic. -/
def Statement (i : Instr) : Prop := rowOf (encode P0 i) = some i.mnemonic

theorem scan : Statement .scan := rfl

theorem poll : Statement .poll := rfl

theorem cfg (n : Byte) : Statement (.cfg n) := by unfold Statement; revert n; decide

theorem tick : Statement .tick := rfl

theorem pps : Statement .pps := rfl

theorem rxb (b : Byte) : Statement (.rxb b) := by unfold Statement; revert b; decide

theorem reserved6 : Statement .reserved6 := rfl

theorem reset : Statement .reset := rfl

theorem magTime (w3 : Byte) : Statement (.magTime w3) := by unfold Statement; revert w3; decide

theorem magStatus (w3 : Byte) : Statement (.magStatus w3) := by unfold Statement; revert w3; decide

theorem trimble : Statement .trimble := rfl

end Sys2Proof.Laws.EncodesRow
end

