-- ==== Sys2Proof/Laws/Scan.lean ====
section
/-! SUPPORT. All that SCAN can do, and all that finishing a packet can do: each said once, for the provers to cite. -/

namespace Sys2Proof.Machine

/-! ## Finishing a packet -/

/-- How finishing a packet leaves the state, but for the trace: the packet in progress reset, the poll call ended. -/
def finished (s : State) (trace : List OutEvent) : State :=
  { s with busy := false, ptype := .unknown, plen := 0, esc := false, trace := trace }

/-- END_POLL after PKT_RESET as one update. -/
theorem endPoll_pktReset_eq (s : State) :
    endPoll (pktReset s) = finished s (s.trace ++ statusOwed s.updated s.curTs s.link) := by
  rw [endPoll_eq]; rfl

/-- A Timestamp accepted, and the STATUS event that reports it. -/
def finishedAccepted (ts : Timestamp) (s : State) : State :=
  finished (acceptTs ts s) ((acceptTs ts s).trace ++ [.status ts .active])

/-- An error reported, and the STATUS event owed. -/
def finishedRejected (e : OutEvent) (s : State) : State :=
  finished s (s.trace ++ e :: statusOwed s.updated s.curTs s.link)

theorem endPoll_pktReset_acceptTs (ts : Timestamp) (s : State) :
    endPoll (pktReset (acceptTs ts s)) = finishedAccepted ts s := by
  have h1 : (acceptTs ts s).updated = true := rfl
  have h2 : (acceptTs ts s).curTs = ts := by rw [acceptTs_frame]
  have h3 : (acceptTs ts s).link = .active := by rw [acceptTs_frame]
  rw [endPoll_pktReset_eq, h1, h2, h3]; rfl

theorem endPoll_pktReset_emit (e : OutEvent) (s : State) :
    endPoll (pktReset (emit e s)) = finishedRejected e s := by
  rw [endPoll_pktReset_eq]
  simp [finishedRejected, finished, emit]

/-- All TB_FINISH can do (42_trimble_decoder R118). -/
theorem tbFinish_cases (s : State) :
    trimbleTerminated s = true ∧ tbFinish s = finishedAccepted (trimbleTimestamp s) s ∨
    trimbleTerminated s = false ∧ tbFinish s = finishedRejected (.dbgMalformed (pktBytes s tbLen)) s := by
  unfold tbFinish
  cases h : trimbleTerminated s
  · exact .inr ⟨rfl, by simp only [Bool.false_eq_true, if_false, endPoll_pktReset_emit]⟩
  · exact .inl ⟨rfl, by simp only [if_true, endPoll_pktReset_acceptTs]⟩

/-- All MG_FINISH can do (43_magellan_decoder R132, R134, R135, R138). -/
theorem mgFinish_cases (c : PacketClass) (s : State) :
    (∃ e, ((∃ bytes, e = .dbgMalformed bytes) ∨ ∃ x y bytes, x ≠ y ∧ e = .dbgChecksum x y bytes) ∧
      mgFinish c s = finishedRejected e s) ∨
    (∃ ts, c ≠ .magStatus ∧ magellanTimestamp s = some ts ∧ mgFinish c s = finishedAccepted ts s) ∨
    (∃ l, c = .magStatus ∧ l ≠ s.magLocked ∧
      mgFinish c s =
        finished { s with magLocked := l, curTs := { s.curTs with locked := l }, updated := true }
          (s.trace ++ [.status { s.curTs with locked := l } s.link])) ∨
    (c = .magStatus ∧ mgFinish c s = finished s (s.trace ++ statusOwed s.updated s.curTs s.link)) := by
  unfold mgFinish
  dsimp only
  split
  · exact .inl ⟨_, .inl ⟨_, rfl⟩, endPoll_pktReset_emit _ _⟩
  · split
    · exact .inl ⟨_, .inr ⟨_, _, _, ‹_›, rfl⟩, endPoll_pktReset_emit _ _⟩
    · split
      · unfold mgStatusAccept
        dsimp only
        split
        · exact .inr (.inr (.inr ⟨‹_›, endPoll_pktReset_eq s⟩))
        · exact .inr (.inr (.inl ⟨_, ‹_›, ‹_›, endPoll_pktReset_eq _⟩))
      · unfold mgTimeAccept
        cases h : magellanTimestamp s with
        | none => exact .inl ⟨_, .inl ⟨_, rfl⟩, endPoll_pktReset_emit _ _⟩
        | some ts => exact .inr (.inl ⟨ts, ‹_›, rfl, endPoll_pktReset_acceptTs ts s⟩)

/-! ## SCAN -/

theorem execScan_of_decoding {c : PacketClass} {s : State} (h : decoding c s) :
    exec .scan s = match c with | .trimble => trimbleStep s | c => magellanStep c s := by
  obtain ⟨h1, h2, h3⟩ := h
  cases c <;> simp [exec, execScan, h1, h2, h3]

theorem execScan_of_synchronizing {s : State} (h : synchronizing s) : exec .scan s = .next (syncStep s) := by
  obtain ⟨h1, h2, h3⟩ := h
  simp [exec, execScan, h1, h2, h3]

/-- All a decoder step can do. -/
theorem decoderStep_next {c : PacketClass} {s t : State} (hd : decoding c s) (h : exec .scan s = .next t) :
    ∃ u : State,
      u = { s with rd := u.rd, pkt := u.pkt, plen := u.plen, esc := u.esc } ∧
      (s.pkt.wf pktCap → u.pkt.wf pktCap) ∧ (c ≠ .trimble → u.esc = s.esc) ∧
      ((s.plen.toNat < frameLen c → u.plen.toNat < frameLen c) ∧ t = u ∨
        c = .trimble ∧ t = tbFinish u ∨ c ≠ .trimble ∧ t = mgFinish c u) := by
  rw [execScan_of_decoding hd] at h
  by_cases hp : s.plen.toNat < pktCap
  · have h1 := plen_succ_toNat hp
    by_cases hc : c = .trimble
    · subst hc
      dsimp only at h
      obtain ⟨he, hb, e⟩ | ⟨he, hb, e⟩ | ⟨he, hb, e⟩ | ⟨he, hb, hn, e⟩ | ⟨he, hb, hn, e⟩ := trimbleStep_cases hp
      · rw [e] at h; cases h
        exact ⟨{ s with rd := s.rd + 1, esc := true }, rfl, fun h => h, by simp, .inl ⟨fun h => h, rfl⟩⟩
      · rw [e] at h; dsimp only at h
        split at h <;> cases h
        · exact ⟨_, rfl, fun h => Memory.wf_write h hp _, by simp, .inr (.inl ⟨rfl, rfl⟩)⟩
        · refine ⟨_, rfl, fun h => Memory.wf_write h hp _, by simp, .inl ⟨fun h2 => ?_, rfl⟩⟩
          simp only [h1, frameLen, tbLen, pktCap] at *; omega
      · rw [e] at h; dsimp only at h
        split at h <;> cases h
        · exact ⟨_, rfl, fun h => Memory.wf_write h hp _, by simp, .inr (.inl ⟨rfl, rfl⟩)⟩
        · refine ⟨_, rfl, fun h => Memory.wf_write h hp _, by simp, .inl ⟨fun h2 => ?_, rfl⟩⟩
          simp only [h1, frameLen, tbLen, pktCap] at *; omega
      · rw [e] at h; cases h
        exact ⟨_, rfl, fun h => Memory.wf_write h hp _, by simp, .inr (.inl ⟨rfl, rfl⟩)⟩
      · rw [e] at h; dsimp only at h
        have h2 : (s.plen + 1 + 1).toNat = s.plen.toNat + 2 := by
          rw [plen_succ_toNat (by rw [h1]; simp only [pktCap]; omega), h1]
        have hw : ∀ v w : Byte, s.pkt.wf pktCap → ((s.pkt.write s.plen.toNat v).write (s.plen.toNat + 1) w).wf pktCap :=
          fun v w h => Memory.wf_write (Memory.wf_write h hp _) (by simp only [pktCap]; omega) _
        split at h <;> cases h
        · exact ⟨_, rfl, hw _ _, by simp, .inr (.inl ⟨rfl, rfl⟩)⟩
        · refine ⟨_, rfl, hw _ _, by simp, .inl ⟨fun h3 => ?_, rfl⟩⟩
          dsimp only
          rw [h2]; simp only [frameLen, tbLen, pktCap] at *; omega
    · have e : magellanStep c s = .next t := by cases c <;> first | exact h | exact absurd rfl hc
      rw [magellanStep_eq hp] at e
      dsimp only at e
      split at e <;> cases e
      · exact ⟨{ s with rd := s.rd + 1, pkt := s.pkt.write s.plen.toNat (s.buf.read s.rd.toNat), plen := s.plen + 1 },
          rfl, fun h => Memory.wf_write h hp _, fun _ => rfl, .inr (.inr ⟨hc, rfl⟩)⟩
      · refine ⟨{ s with rd := s.rd + 1, pkt := s.pkt.write s.plen.toNat (s.buf.read s.rd.toNat), plen := s.plen + 1 },
          rfl, fun h => Memory.wf_write h hp _, fun _ => rfl, .inl ⟨fun h2 => ?_, rfl⟩⟩
        dsimp only; rw [h1]; omega
  · have hs : ∀ (v : Byte) (u : State), u.plen = s.plen → storePkt v u = none := by
      intro v u hu
      simp only [storePkt, hu, if_neg hp]
    have ht : ∀ (v : Byte) (u : State), u.plen = s.plen → storeTb v u = none := by
      intro v u hu
      simp only [storeTb, hs v u hu]
    cases c
    · dsimp only at h; rw [magellanStep, hs _ (advanceRd s) rfl] at h; cases h
    · dsimp only at h; rw [magellanStep, hs _ (advanceRd s) rfl] at h; cases h
    · dsimp only at h
      unfold trimbleStep at h
      dsimp only at h
      rw [ht _ (advanceRd { s with esc := false }) rfl, ht _ { s with esc := false } rfl, ht _ (advanceRd s) rfl] at h
      simp only [storeResult] at h
      split at h
      · split at h <;> cases h
      · split at h
        · cases h
          exact ⟨{ s with rd := s.rd + 1, esc := true }, rfl, fun h => h, by simp, .inl ⟨fun h => h, rfl⟩⟩
        · cases h

/-- All a SCAN step can do. -/
theorem execScan_next {s t : State} (h : exec .scan s = .next t) :
    (s.busy = false ∧ t = s) ∨ (s.busy = true ∧ s.rd = s.snap ∧ t = endPoll s) ∨
    (synchronizing s ∧ classify s.params (window s) = none ∧ t = skipByte s) ∨
    (∃ c, synchronizing s ∧ classify s.params (window s) = some c ∧ t = recognise c s) ∨
    (∃ (c : PacketClass) (u : State), decoding c s ∧
      u = { s with rd := u.rd, pkt := u.pkt, plen := u.plen, esc := u.esc } ∧
      (s.pkt.wf pktCap → u.pkt.wf pktCap) ∧ (c ≠ .trimble → u.esc = s.esc) ∧
      ((s.plen.toNat < frameLen c → u.plen.toNat < frameLen c) ∧ t = u ∨
        c = .trimble ∧ t = tbFinish u ∨ c ≠ .trimble ∧ t = mgFinish c u)) := by
  by_cases hb : s.busy = true
  · by_cases hr : s.rd = s.snap
    · refine .inr (.inl ⟨hb, hr, ?_⟩)
      simp [exec, execScan, hb, hr] at h
      exact h.symm
    · rcases hp : s.ptype with _ | c
      · rw [execScan_of_synchronizing ⟨hb, hr, hp⟩, syncStep] at h
        cases hc : classify s.params (window s) with
        | none =>
          rw [hc] at h; cases h
          exact .inr (.inr (.inl ⟨⟨hb, hr, hp⟩, rfl, rfl⟩))
        | some c =>
          rw [hc] at h; cases h
          exact .inr (.inr (.inr (.inl ⟨c, ⟨hb, hr, hp⟩, rfl, rfl⟩)))
      · have hd : decoding c s := ⟨hb, hr, hp⟩
        obtain ⟨u, h2⟩ := decoderStep_next hd h
        rw [← hp]
        exact .inr (.inr (.inr (.inr ⟨c, u, hd, h2⟩)))
  · have hb' : s.busy = false := by simpa using hb
    simp [exec, execScan, hb'] at h
    exact .inl ⟨hb', h.symm⟩

/-- A decoder step completes from a scratch that can still take it. -/
theorem decoderStep_completes {c : PacketClass} {s : State} (hd : decoding c s) (hp : s.plen.toNat < pktCap) :
    ∃ t, exec .scan s = .next t := by
  rw [execScan_of_decoding hd]
  cases c
  · exact ⟨_, magellanStep_eq hp⟩
  · exact ⟨_, magellanStep_eq hp⟩
  · obtain ⟨he, hb, e⟩ | ⟨he, hb, e⟩ | ⟨he, hb, e⟩ | ⟨he, hb, hn, e⟩ | ⟨he, hb, hn, e⟩ := trimbleStep_cases hp
    all_goals exact ⟨_, e⟩
end Sys2Proof.Machine
end

