-- ==== Sys2Proof/Tests/Slice0.lean ====
section
/-! SUPPORT. Tests: words written out from the spec's encodings, ill-formed terms the checks refuse, single steps from the
spec's own examples (95_test_vectors, and the rule each test names), and for every obligation with hypotheses a state that
meets them (`witness_<Name>`). -/

namespace Sys2Proof.Tests

open Sys2Proof.Machine

/-! ## Small states -/

/-- The next state, where there is one. -/
def nextOf : Result → Option State
  | .next t => some t
  | .fault _ => none
  | .refused _ => none

/-- The ring with these bytes from an index on. -/
def ring (i : Byte) (bytes : List Byte) (s : State) : State :=
  match bytes with
  | [] => s
  | b :: rest => ring (i + 1) rest (writeRing i b s)

/-- A scratch memory with these bytes from an address on. -/
def cells (a : Nat) (bytes : List Byte) : Memory :=
  match bytes with
  | [] => []
  | b :: rest => (cells (a + 1) rest).write a b

/-- A poll call in progress, unsynchronized, with this window under RD = 3 and nothing after it. -/
def atWindow (w3 w2 w1 w0 : Byte) : State :=
  ring 0 [w3, w2, w1, w0] { State.reset with busy := true, rd := 3, snap := 4 }

/-- A poll call in progress inside a packet, with these bytes stored and one byte to come. -/
def inPacket (c : PacketClass) (esc : Bool) (stored : List Byte) (b : Byte) : State :=
  ring 0 [b] { State.reset with busy := true, snap := 1, ptype := .known c, plen := BitVec.ofNat 5 stored.length,
                                esc := esc, pkt := cells 0 stored }

/-- The first 19 stored bytes of vector V1's frame F: 12:34:56 on 27/7/2012, locked. -/
def frameF : List Byte :=
  [0x10, 0x8F, 0xAB, 0, 0, 0, 0, 0, 0, 0, 0, 0x03, 0x38, 0x22, 0x0C, 0x1B, 0x07, 0x07, 0xDC]

/-- The first 12 bytes of vector V4's packet H. -/
def packetH : List Byte := [0x24, 0x24, 0x41, 0x00, 0x0C, 0x22, 0x38, 0x0B, 0x0C, 0x5C, 0x00, 0x0C]

/-- The first 15 bytes of vector V7's status packet with the lock bit set. -/
def statusOn : List Byte := [0x24, 0x24, 0x48, 0x01, 0, 0, 0, 0, 0, 0, 0, 0, 0, 0, 0x49]

/-- The first 15 bytes of vector V7's status packet with the lock bit clear. -/
def statusOff : List Byte := [0x24, 0x24, 0x48, 0x00, 0, 0, 0, 0, 0, 0, 0, 0, 0, 0, 0x48]

/-- A synchronizer at the last pulse of its exposure, the pulse of this second missed (45_countdown R171). -/
def lastPulseMissed : State :=
  { inPacket .trimble true frameF 0x03 with explen := 2, remaining := 1, cd := .enabled, link := .active }

/-! ## Decoding, from the encodings of 30_encoding R62 (op, then arg) and R68 (w3, w2, w1, w0) -/

theorem test_word_scan : decodeEvent 0b00000000000#11 = .scan := by decide
theorem test_word_poll : decodeEvent 0b00100000000#11 = .poll := by decide
theorem test_word_cfg : decodeEvent 0b01000000101#11 = .cfg 5 := by decide
theorem test_word_tick : decodeEvent 0b01100000000#11 = .tick := by decide
theorem test_word_pps : decodeEvent 0b10011111111#11 = .pps := by decide
theorem test_word_rxb : decodeEvent 0b10100010000#11 = .rxb 0x10 := by decide
theorem test_word_reserved6 : decodeEvent 0b11010100101#11 = .reserved6 := by decide
theorem test_word_reset : decodeEvent 0b11100000000#11 = .reset := by decide
theorem test_word_magTime : decodeWindow P0 0x0A242441 = .ok (.magTime 0x0A) := by decide
theorem test_word_magStatus : decodeWindow P0 0xFF242448 = .ok (.magStatus 0xFF) := by decide
theorem test_word_trimble : decodeWindow P0 0x03108FAB = .ok .trimble := by decide
theorem test_word_no_class : decodeWindow P0 0x0010108F = .error .noClass := by decide
theorem test_table_word_rxb : decodeTableWord 16 0x5A7 = some (.rxb 0xA7) := by decide
theorem test_table_word_trimble : decodeTableWord 32 0x03108FAB = some .trimble := by decide
theorem test_table_word_too_long : decodeTableWord 16 0x800 = none := by decide

/-! ## WellFormed: a term that each check refuses -/

theorem test_P0_ok : P0.ok := by decide
theorem test_refuses_trimble_offset_low : ¬ Params.ok { P0 with tbOffStatus := 2 } := by decide
theorem test_refuses_trimble_offset_high : ¬ Params.ok { P0 with tbOffYearLo := 19 } := by decide
theorem test_refuses_time_offset : ¬ Params.ok { P0 with mtOffYear := 13 } := by decide
theorem test_refuses_status_offset : ¬ Params.ok { P0 with msOffLock := 16 } := by decide
theorem test_refuses_checksum_start : ¬ Params.ok { P0 with mgCsumStart := 12 } := by decide
theorem test_refuses_silence_limit : ¬ Params.ok { P0 with silenceLimit := 65001 } := by decide
theorem test_refuses_hidden_status : ¬ Instr.WellFormed { P0 with mgTStatus := 0x41 } (.magStatus 0) := by decide
theorem test_refuses_hidden_trimble :
    ¬ Instr.WellFormed { P0 with dle := 0x24, tbId1 := 0x24, tbId2 := 0x41 } .trimble := by decide

/-! ## Single steps -/

/-- V11: the 256th byte brings WR back to 0. -/
theorem test_rxb_wraps :
    (nextOf (exec (.rxb 0xAA) { State.reset with wr := 255 })).map (fun t => (t.wr, t.buf)) =
      some (0, [(255, 0xAA)]) := by decide

/-- R151: a byte clears AGE and leaves UNAVAILABLE. -/
theorem test_rxb_link :
    (nextOf (exec (.rxb 0) { State.reset with age := 7 })).map (fun t => (t.link, t.age)) = some (.syncing, 0) := by
  decide

/-- R92: POLL clears the result of the last call. -/
theorem test_poll :
    (nextOf (exec .poll { State.reset with wr := 9, updated := true })).map (fun t => (t.snap, t.busy, t.updated)) =
      some (9, true, false) := by decide

/-- V7: END_POLL reports the change. -/
theorem test_scan_drained :
    (nextOf (exec .scan { State.reset with busy := true, updated := true })).map (·.trace) =
      some [.status .zero .unavailable] := by decide

/-- V1, step 7: the held DLE and the byte after it are both stored. -/
theorem test_scan_unstuffs :
    (nextOf (exec .scan (inPacket .trimble true [] 0x8F))).map (fun t => (t.plen, t.pkt, t.esc, t.rd)) =
      some (2, [(0, 0x10), (1, 0x8F)], false, 1) := by decide

/-- V1, step 26: frame F is accepted. -/
theorem test_scan_accepts_frame :
    (nextOf (exec .scan (inPacket .trimble true frameF 0x03))).map (·.trace) =
      some [.status ⟨12, 34, 56, 27, 7, 2012, true⟩ .active] := by decide

/-- V4: packet H is accepted with the corrected date. -/
theorem test_scan_accepts_packet :
    (nextOf (exec .scan (inPacket .magTime false packetH 0x0A))).map (·.trace) =
      some [.status ⟨12, 34, 56, 27, 7, 2012, false⟩ .active] := by decide

/-- V7: the lock bit is recorded, the link is not touched. -/
theorem test_scan_status_packet :
    (nextOf (exec .scan (inPacket .magStatus false statusOn 0x0A))).map (fun t => (t.magLocked, t.link, t.updated)) =
      some (true, .unavailable, true) := by decide

/-- V8: the tick that makes AGE 62501 loses the link. -/
theorem test_tick_loses_link :
    (nextOf (exec .tick { State.reset with link := .syncing, age := 62500 })).map (fun t => (t.age, t.link, t.trace)) =
      some (62501, .unavailable, [.linkLost]) := by decide

/-- V8: the tick before does not. -/
theorem test_tick_keeps_link :
    (nextOf (exec .tick { State.reset with link := .syncing, age := 62499 })).map (fun t => (t.age, t.link, t.trace)) =
      some (62500, .syncing, []) := by decide

/-- R166: CFG drops the alignment. -/
theorem test_cfg :
    (nextOf (exec (.cfg 3) { State.reset with explen := 2, remaining := 1, cd := .triggered })).map
      (fun t => (t.explen, t.remaining, t.cd)) = some (3, 3, .syncing) := by decide

/-- V9: the third pulse of an exposure of 3. -/
theorem test_pps_triggers :
    (nextOf (exec .pps { State.reset with explen := 3, remaining := 1, cd := .enabled, link := .active })).map
      (fun t => (t.remaining, t.cd, t.recordSync, t.trace)) = some (3, .triggered, true, [.trigger]) := by decide

/-- R167: no pulse counts while the link is not ACTIVE. -/
theorem test_pps_needs_link :
    nextOf (exec .pps { State.reset with explen := 3, remaining := 1, cd := .enabled, link := .syncing }) =
      some { State.reset with explen := 3, remaining := 1, cd := .enabled, link := .syncing } := by decide

/-- V14: code 6 changes nothing. -/
theorem test_reserved6 : nextOf (exec .reserved6 lastPulseMissed) = some lastPulseMissed := by decide

/-- R210: RESET keeps the trace and clears the rest. -/
theorem test_reset :
    nextOf (exec .reset { lastPulseMissed with trace := [.trigger] }) = some { State.reset with trace := [.trigger] } := by
  decide

/-- V1, step 5: DBG_SKIP(4) and the rewind by two. -/
theorem test_trimble_signature :
    (nextOf (exec .trimble { atWindow 0x03 0x10 0x8F 0xAB with skip := 4 })).map (fun t => (t.rd, t.skip, t.trace)) =
      some (1, 0, [.dbgSkip 4]) := by decide

/-- R106: two skipped bytes are not reported. -/
theorem test_magTime_signature :
    (nextOf (exec (.magTime 0) { atWindow 0 0x24 0x24 0x41 with skip := 2 })).map (fun t => (t.rd, t.ptype, t.trace)) =
      some (1, .known .magTime, []) := by decide

/-- R106: three are. -/
theorem test_magStatus_signature :
    (nextOf (exec (.magStatus 0) { atWindow 0 0x24 0x24 0x48 with skip := 3 })).map (fun t => (t.rd, t.ptype, t.trace)) =
      some (1, .known .magStatus, [.dbgSkip 3]) := by decide

/-- R83, R225: an event word presented is performed by the next step. -/
theorem test_step_runs_word :
    nextOf (step (State.reset.withFetchWord 16 0x205)) = nextOf (exec (.cfg 5) State.reset) := by decide

/-- R102: a signature's window is recognised by the next step. -/
theorem test_step_runs_window :
    (nextOf (step (State.reset.withFetchWord 32 0x03108FAB))).map (fun t => (t.ptype, t.rd)) =
      some (.known .trimble, 254) := by decide

/-- 30_encoding R82's example. -/
theorem test_assemble : assemble ['R', 'X', 'B', ' ', '0', 'x', '1', '0'] = some 0x510 := by decide

/-! ## Witnesses: for each obligation with hypotheses, states and operands that meet them, one for each clause -/

theorem witness_DecodeOfEncodeIsInstruction :
    Instr.WellFormed P0 (.cfg 255) ∧ Instr.WellFormed P0 (.magTime 0) ∧ Instr.WellFormed P0 (.magStatus 255) ∧
    Instr.WellFormed P0 .trimble := by decide

theorem witness_EncodeOfDecodeIsWord :
    decodeWindow P0 0xFF242441 = .ok (.magTime 0xFF) ∧ decodeWindow P0 0x00242448 = .ok (.magStatus 0) ∧
    decodeWindow P0 0x03108FAB = .ok .trimble := by decide

/-- The first and the last word of each row. -/
theorem witness_EventWordsDecodeToTheirRow :
    (0x000#11 &&& 0x700 = 0x000 ∧ 0x0FF#11 &&& 0x700 = 0x000) ∧ (0x100#11 &&& 0x700 = 0x100 ∧ 0x1FF#11 &&& 0x700 = 0x100) ∧
    (0x200#11 &&& 0x700 = 0x200 ∧ 0x2FF#11 &&& 0x700 = 0x200) ∧ (0x300#11 &&& 0x700 = 0x300 ∧ 0x3FF#11 &&& 0x700 = 0x300) ∧
    (0x400#11 &&& 0x700 = 0x400 ∧ 0x4FF#11 &&& 0x700 = 0x400) ∧ (0x500#11 &&& 0x700 = 0x500 ∧ 0x5FF#11 &&& 0x700 = 0x500) ∧
    (0x600#11 &&& 0x700 = 0x600 ∧ 0x6FF#11 &&& 0x700 = 0x600) ∧ (0x700#11 &&& 0x700 = 0x700 ∧ 0x7FF#11 &&& 0x700 = 0x700) := by
  decide

theorem witness_OperandByteIsUsedOrIgnored :
    (4 : BitVec 3) ≠ 2 ∧ (4 : BitVec 3) ≠ 5 ∧ encode P0 .pps = .ev 0x400 ∧ (∀ b, Instr.pps ≠ .cfg b) ∧
    (∀ b, Instr.pps ≠ .rxb b) := by decide

theorem witness_StepPerformsThePresentedOperation :
    (presentNext 0x5FF State.reset).input = 0x5FF :: [] ∧
    decode (presentNext 0x5FF State.reset).params (.ev 0x5FF) = .ok (.rxb 255) ∧
    (Instr.rxb 255).WellFormed (presentNext 0x5FF State.reset).params := by decide

theorem witness_StepWithoutOperationHolds : State.reset.input = [] := by decide

theorem witness_StepRunsThePlacedSignature :
    decodeWindow State.reset.params 0x03108FAB = .ok .trimble ∧
    decodeWindow State.reset.params 0x00242441 = .ok (.magTime 0) ∧
    decodeWindow State.reset.params 0xFF242448 = .ok (.magStatus 0xFF) := by decide

/-- The invariant holds in the middle of a Trimble packet, with a DLE held and the countdown running. -/
theorem inv_lastPulseMissed : lastPulseMissed.Inv :=
  ⟨by decide, by decide, by decide, by decide, by show (19 : BitVec 5).toNat < 21; decide, by decide, by decide⟩

theorem witness_StepKeepsInvariant :
    (presentNext 0 lastPulseMissed).Inv ∧ (nextOf (step (presentNext 0 lastPulseMissed))).isSome = true :=
  ⟨inv_lastPulseMissed, by decide⟩

theorem witness_NothingStopsTheBlock : lastPulseMissed.Inv := inv_lastPulseMissed

theorem witness_OperationsKeepParametersInputAndTrace : (nextOf (exec .scan lastPulseMissed)).isSome = true := by decide

/-- An operation of each context completes. -/
theorem witness_ContextsWriteOnlyTheirElements :
    ((Instr.rxb 0).context = .interrupt ∧ (nextOf (exec (.rxb 0) lastPulseMissed)).isSome = true) ∧
    (Instr.scan.context = .polling ∧ (nextOf (exec .scan lastPulseMissed)).isSome = true) ∧
    ((Instr.cfg 1).context = .config ∧ (nextOf (exec (.cfg 1) lastPulseMissed)).isSome = true) ∧
    (Instr.reserved6.context = .none ∧ (nextOf (exec .reserved6 lastPulseMissed)).isSome = true) ∧
    ((∀ b, Instr.scan ≠ .rxb b) ∧ Instr.scan ≠ .reset) := by decide

/-- 256 bytes: each is still in its cell; a cell outside the bytes written is one after a single byte. -/
theorem witness_OverrunIsSilent :
    (0 < (List.replicate 256 (1 : Byte)).length ∧ (List.replicate 256 (1 : Byte)).length ≤ 0 + 256) ∧
    (∀ k, k < ([1] : List Byte).length → 1 ≠ (State.reset.wr.toNat + k) % 256) := 
  ⟨⟨by rw [List.length_replicate]; decide, by rw [List.length_replicate]⟩, by decide⟩

theorem witness_PollTakesTheSnapshot : State.reset.busy = false ∧ lastPulseMissed.busy = true := by decide

theorem witness_ScanDispatches :
    State.reset.busy = false ∧
    ({ lastPulseMissed with snap := 0 }.busy = true ∧ { lastPulseMissed with snap := 0 }.rd = 0) ∧
    ((atWindow 0 0 0 0).busy = true ∧ (atWindow 0 0 0 0).rd ≠ (atWindow 0 0 0 0).snap ∧
      (atWindow 0 0 0 0).ptype = .unknown) ∧
    decoding .trimble lastPulseMissed ∧ decoding .magTime (inPacket .magTime false packetH 0x0A) ∧
    decoding .magStatus (inPacket .magStatus false statusOn 0x0A) := by decide

theorem witness_DrainedScanEndsThePollCall :
    { lastPulseMissed with snap := 0 }.busy = true ∧
    { lastPulseMissed with snap := 0 }.rd = { lastPulseMissed with snap := 0 }.snap := by decide

/-- One state for each branch. -/
theorem witness_SynchronizerSkipsOrMatches :
    (synchronizing (atWindow 9 0x24 0x24 0x41) ∧ classify P0 (window (atWindow 9 0x24 0x24 0x41)) = some .magTime) ∧
    (synchronizing (atWindow 9 0x24 0x24 0x48) ∧ classify P0 (window (atWindow 9 0x24 0x24 0x48)) = some .magStatus) ∧
    (synchronizing (atWindow 3 0x10 0x8F 0xAB) ∧ classify P0 (window (atWindow 3 0x10 0x8F 0xAB)) = some .trimble) ∧
    (synchronizing (atWindow 4 0x10 0x8F 0xAB) ∧ classify P0 (window (atWindow 4 0x10 0x8F 0xAB)) = none) := by decide

theorem witness_RewindLandsOnTheFirstByte :
    synchronizing (atWindow 3 0x10 0x8F 0xAB) ∧
    classify (atWindow 3 0x10 0x8F 0xAB).params (window (atWindow 3 0x10 0x8F 0xAB)) = some .trimble := by decide

theorem witness_ScanRunsTheSignatureItDecodes :
    synchronizing (atWindow 9 0x24 0x24 0x41) ∧
    decodeWindow (atWindow 9 0x24 0x24 0x41).params (window (atWindow 9 0x24 0x24 0x41)) = .ok (.magTime 9) := by decide

theorem witness_SignaturesRecogniseTheirClass :
    synchronizing (atWindow 0 0 0 0) ∧ ¬ synchronizing State.reset := by decide

theorem witness_ScanReadsTheSnapshotOnlyAsEnd :
    (atWindow 0 0 0 0).rd ≠ (atWindow 0 0 0 0).snap ∧ (atWindow 0 0 0 0).rd ≠ 2 := by decide

/-- The scratch cells from PLEN on changed. -/
theorem witness_StaleScratchIsNeverRead :
    lastPulseMissed.params.ok ∧ lastPulseMissed.Inv ∧
    (∀ a, a < lastPulseMissed.plen.toNat → (lastPulseMissed.pkt.write 19 0xEE).read a = lastPulseMissed.pkt.read a) :=
  ⟨by decide, inv_lastPulseMissed, by decide⟩

theorem witness_PollCallEnds : lastPulseMissed.Inv ∧ lastPulseMissed.busy = true := ⟨inv_lastPulseMissed, by decide⟩

/-- The reset state satisfies the invariant. -/
theorem inv_reset : State.reset.Inv := ⟨by decide, by decide, by decide, by decide, trivial, by decide, by decide⟩

/-- A drained block with a packet in progress, which reads every byte itself. -/
def drainedInPacket : State := { State.reset with ptype := .known .trimble }

/-- A drained block with two MG_SYNC bytes just behind the cursors. -/
def drainedAfterSync : State := ring 254 [0x24, 0x24] State.reset

/-- A batch of 254 bytes that begins with a discriminator. -/
def batch254 : List Byte := 0x41 :: List.replicate 253 0

theorem batch254_length : batch254.length = 254 := by rw [batch254, List.length_cons, List.length_replicate]

/-- 253 bytes, where nothing is asked. -/
theorem witness_BufferingIsTransparent :
    State.reset.Inv ∧ State.reset.drained ∧ (List.replicate 253 (0x41 : Byte)).length ≤ 255 ∧
    ∀ k, ¬ k + 253 < (List.replicate 253 (0x41 : Byte)).length := by
  refine ⟨inv_reset, ⟨rfl, rfl⟩, ?_, fun k hk => ?_⟩
  · rw [List.length_replicate]; decide
  · rw [List.length_replicate] at hk; omega

/-- 254 bytes of which the first, at reset, could end a signature and does not, with either look-behind. -/
theorem witness_BufferingIsTransparent_254 :
    State.reset.Inv ∧ State.reset.drained ∧ batch254.length ≤ 255 ∧
    ∀ k, k + 253 < batch254.length →
      noSignatureAt batch254 k State.reset ∧ noSignatureAt batch254 k (lookBehindOf batch254 State.reset) := by
  refine ⟨inv_reset, ⟨rfl, rfl⟩, by rw [batch254_length]; decide, fun k hk => ?_⟩
  rw [batch254_length] at hk
  obtain rfl : k = 0 := by omega
  have same : lookBehindOf batch254 State.reset = State.reset := by decide
  rw [same, and_self]
  intro _ _ arrived _ ha _
  have ea : nextOf (runLine (.rx (batch254.take 1)) State.reset) = some arrived := by rw [ha]; rfl
  have ca : (nextOf (runLine (.rx (batch254.take 1)) State.reset)).bind
      (fun t => classify State.reset.params (window { t with rd := 0 })) = none := by decide
  rw [ea] at ca
  exact ca

/-- 255 bytes within a packet, where the synchronizer reads neither of the first two. -/
theorem witness_BufferingIsTransparent_255 :
    let bytes := List.replicate 255 (0x41 : Byte)
    drainedInPacket.Inv ∧ drainedInPacket.drained ∧ bytes.length ≤ 255 ∧
    ∀ k, k + 253 < bytes.length →
      noSignatureAt bytes k drainedInPacket ∧ noSignatureAt bytes k (lookBehindOf bytes drainedInPacket) := by
  refine ⟨⟨by decide, by decide, by decide, by decide, Nat.zero_lt_succ _, by decide, by decide⟩, ⟨rfl, rfl⟩, ?_,
    fun k hk => ?_⟩
  · rw [List.length_replicate]
  · rw [List.length_replicate] at hk
    have unread : ∀ s ∈ [drainedInPacket, lookBehindOf (List.replicate 255 0x41) drainedInPacket], ∀ j < 2,
        (nextOf (runLine (.feed ((List.replicate 255 (0x41 : Byte)).take j)) s)).all
          (fun t => decide ¬ synchronizerReads t 0x41) = true := by decide
    have no : ∀ s ∈ [drainedInPacket, lookBehindOf (List.replicate 255 0x41) drainedInPacket],
        noSignatureAt (List.replicate 255 (0x41 : Byte)) k s := by
      intro s hm h before _ hb _ hs
      rw [List.getElem_replicate] at hs
      have e : nextOf (runLine (.feed ((List.replicate 255 (0x41 : Byte)).take k)) s) = some before := by rw [hb]; rfl
      have u := unread s hm k (by omega)
      rw [e] at u
      exact absurd hs (of_decide_eq_true u)
    exact ⟨no _ (List.mem_cons_self ..), no _ (List.mem_cons_of_mem _ (List.mem_cons_self ..))⟩

/-- 254 bytes of which the first ends a signature, so that the batch is lost. -/
theorem witness_BufferingIsTransparent_lost :
    drainedAfterSync.Inv ∧ drainedAfterSync.drained ∧ batch254.length ≤ 255 ∧ 0 + 253 < batch254.length ∧
    ¬ noSignatureAt batch254 0 (lookBehindOf batch254 drainedAfterSync) := by
  refine ⟨⟨by decide, by decide, by decide, by decide, trivial, by decide, by decide⟩, ⟨by decide, by decide⟩, ?_, ?_, ?_⟩
  · rw [batch254_length]; decide
  · rw [batch254_length]; decide
  · have same : lookBehindOf batch254 drainedAfterSync = drainedAfterSync := by decide
    rw [same]
    intro no
    have c := no (by rw [batch254_length]; decide) _ _ rfl rfl (.inl (by decide))
    revert c
    decide

/-- One state for each clause; the fourth completes the frame on the DLE itself, the fifth leaves one byte to come. -/
theorem witness_TrimbleScannerUnstuffs :
    (decoding .trimble (inPacket .trimble false [] 0x10) ∧ (inPacket .trimble false [] 0x10).plen.toNat < 21) ∧
    (decoding .trimble (inPacket .trimble false frameF 0x05) ∧ (inPacket .trimble false frameF 0x05).plen.toNat < 21) ∧
    (decoding .trimble (inPacket .trimble true frameF 0x10) ∧ (inPacket .trimble true frameF 0x10).plen.toNat < 21) ∧
    (decoding .trimble (inPacket .trimble true (frameF ++ [1]) 0x05) ∧
      (inPacket .trimble true (frameF ++ [1]) 0x05).plen.toNat = 20) ∧
    (decoding .trimble (inPacket .trimble true frameF 0x05) ∧ (inPacket .trimble true frameF 0x05).plen.toNat < 20) := by
  decide

/-- A payload with a DLE in it, the longest that does not complete the frame. -/
theorem witness_UnstuffingInvertsStuffing :
    let s := ring 0 [0x10, 0x10, 5] { inPacket .trimble false (frameF.drop 1) 0 with snap := 3 }
    s.busy = true ∧ s.ptype = .known .trimble ∧ s.esc = false ∧ s.plen.toNat + ([0x10, 5] : List Byte).length < 21 ∧
    ringHolds s s.rd (stuffed s.params.dle [0x10, 5]) ∧ (stuffed s.params.dle [0x10, 5]).length ≤ (s.snap - s.rd).toNat := by
  refine ⟨by decide, by decide, by decide, by decide, ?_, by decide⟩
  show ∀ k (h : k < 3), _
  decide

theorem witness_TrimbleFrameIsAccepted :
    decoding .trimble lastPulseMissed ∧ lastPulseMissed.esc = true ∧ lastPulseMissed.plen = 19 ∧
    lastPulseMissed.params.dle ≠ lastPulseMissed.params.etx ∧
    lastPulseMissed.buf.read lastPulseMissed.rd.toNat = lastPulseMissed.params.etx := by decide

/-- One state for each clause. -/
theorem witness_TrimbleFrameIsRejected :
    (let s := inPacket .trimble false (frameF ++ [0x10]) 0x05
     decoding .trimble s ∧ s.plen = 20 ∧ s.esc = false ∧ s.buf.read s.rd.toNat ≠ 0x10 ∧
     (s.pkt.read 19 ≠ 0x10 ∨ s.buf.read s.rd.toNat ≠ 0x03)) ∧
    (let s := inPacket .trimble true (frameF ++ [0x10]) 0x10
     decoding .trimble s ∧ s.plen = 20 ∧ s.esc = true ∧ s.buf.read s.rd.toNat = 0x10 ∧
     (s.pkt.read 19 ≠ 0x10 ∨ s.params.dle ≠ s.params.etx)) ∧
    (let s := inPacket .trimble true (frameF ++ [0x01]) 0x03
     decoding .trimble s ∧ s.plen = 20 ∧ s.esc = true ∧ s.buf.read s.rd.toNat ≠ 0x10 ∧
     (s.pkt.read 19 ≠ 0x10 ∨ s.params.dle ≠ s.params.etx)) ∧
    (let s := inPacket .trimble true frameF 0x04
     decoding .trimble s ∧ s.plen = 19 ∧ s.esc = true ∧ s.buf.read s.rd.toNat ≠ 0x10 ∧
     s.buf.read s.rd.toNat ≠ 0x03) := by decide

theorem witness_TrimbleFinishValidatesTheTerminator :
    (let s := inPacket .trimble false (frameF ++ [0x10, 0x03]) 0
     s.pkt.read 19 = s.params.dle ∧ s.pkt.read 20 = s.params.etx) ∧
    (let s := inPacket .trimble false (frameF ++ [0x10, 0x04]) 0
     ¬ (s.pkt.read 19 = s.params.dle ∧ s.pkt.read 20 = s.params.etx)) := by decide

/-- A step in the middle of a packet, and the last step of each variant. -/
theorem witness_MagellanStepStoresOneByte :
    (let s := inPacket .magTime false (packetH.take 11) 0x0C
     decoding .magTime s ∧ s.plen.toNat < frameLen .magTime ∧ s.plen.toNat + 1 < frameLen .magTime) ∧
    (let s := inPacket .magTime false packetH 0x0A
     decoding .magTime s ∧ s.plen.toNat < frameLen .magTime ∧ s.plen.toNat + 1 = frameLen .magTime) ∧
    (let s := inPacket .magStatus false statusOn 0x0A
     decoding .magStatus s ∧ s.plen.toNat < frameLen .magStatus ∧ s.plen.toNat + 1 = frameLen .magStatus) := by decide

/-- Complete packets: a wrong terminator, a wrong checksum, and a good packet of each variant. -/
theorem witness_MagellanFinishValidatesInOrder :
    (inPacket .magTime false (packetH ++ [0x0D]) 0).pkt.read (frameLen .magTime - 1) ≠ 0x0A ∧
    (let s := inPacket .magTime false (packetH.take 11 ++ [0x0D, 0x0A]) 0
     s.pkt.read (frameLen .magTime - 1) = 0x0A ∧ xorFrom s.pkt 2 9 ≠ s.pkt.read (frameLen .magTime - 2)) ∧
    (let s := inPacket .magStatus false (statusOn ++ [0x0A]) 0
     s.pkt.read (frameLen .magStatus - 1) = 0x0A ∧ xorFrom s.pkt 2 12 = s.pkt.read (frameLen .magStatus - 2)) ∧
    (let s := inPacket .magTime false (packetH ++ [0x0A]) 0
     s.pkt.read (frameLen .magTime - 1) = 0x0A ∧ xorFrom s.pkt 2 9 = s.pkt.read (frameLen .magTime - 2)) := by decide

theorem witness_MagellanTerminatorIsChecked :
    (let s := inPacket .magTime false packetH 0x0D
     decoding .magTime s ∧ s.plen.toNat + 1 = frameLen .magTime ∧ s.buf.read s.rd.toNat ≠ s.params.mgLf) ∧
    (let s := inPacket .magStatus false statusOn 0x0D
     decoding .magStatus s ∧ s.plen.toNat + 1 = frameLen .magStatus ∧ s.buf.read s.rd.toNat ≠ s.params.mgLf) := by decide

/-- V5: the checksum byte off by one bit. -/
theorem witness_MagellanChecksumIsChecked :
    let s := inPacket .magTime false (packetH.take 11 ++ [0x0D]) 0x0A
    decoding .magTime s ∧ s.plen.toNat + 1 = frameLen .magTime ∧ s.buf.read s.rd.toNat = s.params.mgLf ∧
    xorFrom s.pkt 2 9 ≠ s.pkt.read (frameLen .magTime - 2) := by decide

/-- A good packet, and the first and the last byte that can be hit. -/
theorem witness_ByteErrorsAreDetected :
    let s := inPacket .magTime false packetH 0x0A
    decoding .magTime s ∧ s.plen.toNat + 1 = frameLen .magTime ∧ s.buf.read s.rd.toNat = s.params.mgLf ∧
    xorFrom s.pkt s.params.mgCsumStart (frameLen .magTime - 2 - s.params.mgCsumStart) = s.pkt.read (frameLen .magTime - 2) ∧
    (s.params.mgCsumStart.val ≤ 2 ∧ 2 ≤ frameLen .magTime - 2) ∧
    (s.params.mgCsumStart.val ≤ 11 ∧ 11 ≤ frameLen .magTime - 2) ∧ (0x80 : Byte) ≠ 0 := by decide

/-- A lock bit that differs from MAG_LOCKED, and one that does not. -/
theorem witness_StatusPacketIsEdgeTriggered :
    (let s := inPacket .magStatus false statusOn 0x0A
     decoding .magStatus s ∧ s.plen = 15 ∧ s.buf.read s.rd.toNat = s.params.mgLf ∧
     xorFrom s.pkt s.params.mgCsumStart (14 - s.params.mgCsumStart) = s.pkt.read 14 ∧
     decide ((s.pkt.write 15 0x0A).read s.params.msOffLock &&& s.params.msLockMask ≠ 0) ≠ s.magLocked) ∧
    (let s := inPacket .magStatus false statusOff 0x0A
     decoding .magStatus s ∧ s.plen = 15 ∧ s.buf.read s.rd.toNat = s.params.mgLf ∧
     xorFrom s.pkt s.params.mgCsumStart (14 - s.params.mgCsumStart) = s.pkt.read 14 ∧
     decide ((s.pkt.write 15 0x0A).read s.params.msOffLock &&& s.params.msLockMask ≠ 0) = s.magLocked) := by decide

theorem witness_TimePacketIsAccepted :
    let s := inPacket .magTime false packetH 0x0A
    decoding .magTime s ∧ s.plen = 12 ∧ s.buf.read s.rd.toNat = s.params.mgLf ∧
    xorFrom s.pkt s.params.mgCsumStart (11 - s.params.mgCsumStart) = s.pkt.read 11 ∧
    ((s.pkt.write 12 s.params.mgLf).read s.params.mtOffMonth).toNat = Month.dec.number := by decide

/-- V5: the months 0 and 13, each with its checksum. -/
theorem witness_MonthOutOfRangeIsMalformed :
    (let s := inPacket .magTime false [0x24, 0x24, 0x41, 0, 0x0C, 0x22, 0x38, 0x0B, 0, 0x5C, 0, 0] 0x0A
     decoding .magTime s ∧ s.plen = 12 ∧ s.buf.read s.rd.toNat = s.params.mgLf ∧
     xorFrom s.pkt s.params.mgCsumStart (11 - s.params.mgCsumStart) = s.pkt.read 11 ∧
     ((s.pkt.write 12 s.params.mgLf).read s.params.mtOffMonth).toNat < 1) ∧
    (let s := inPacket .magTime false [0x24, 0x24, 0x41, 0, 0x0C, 0x22, 0x38, 0x0B, 13, 0x5C, 0, 0x0D] 0x0A
     decoding .magTime s ∧ s.plen = 12 ∧ s.buf.read s.rd.toNat = s.params.mgLf ∧
     xorFrom s.pkt s.params.mgCsumStart (11 - s.params.mgCsumStart) = s.pkt.read 11 ∧
     ((s.pkt.write 12 s.params.mgLf).read s.params.mtOffMonth).toNat > 12) := by decide

theorem witness_NormaliseIsExact : 1 ≤ 1 ∧ 1 ≤ 240 := by decide

/-- A malformed frame and a checksum mismatch. -/
theorem witness_RejectedFramesChangeNothingElse :
    (nextOf (exec .scan (inPacket .magTime false packetH 0x0D))).map (·.trace) =
      some [.dbgMalformed (packetH ++ [0x0D])] ∧
    (nextOf (exec .scan (inPacket .magTime false (packetH.take 11 ++ [0x0D]) 0x0A))).map (·.trace) =
      some [.dbgChecksum 0x0C 0x0D (packetH.take 11 ++ [0x0D, 0x0A])] := by decide

/-- AGE one below the limit, and at it. -/
theorem witness_TickCountsSilence :
    State.reset.link = .unavailable ∧
    (let s : State := { State.reset with link := .active, age := 62499 }
     s.link ≠ .unavailable ∧ s.age.toNat < 65535 ∧ s.age.toNat + 1 ≤ s.params.silenceLimit) ∧
    (let s : State := { State.reset with link := .syncing, age := 62500 }
     s.link ≠ .unavailable ∧ s.age.toNat < 65535 ∧ s.age.toNat + 1 > s.params.silenceLimit) := by decide

theorem witness_LinkIsLostExactlyOnce :
    let s : State := { State.reset with link := .active }
    s.link ≠ .unavailable ∧ s.age = 0 ∧ s.params.silenceLimit ≤ 65000 := by decide

/-- A tick at the limit, and a SCAN that accepts a Timestamp while the link is already up; then the general clause: a SCAN
that accepts after the link was lost is counted, and the tick after it is within the count. -/
theorem witness_AgeStaysBounded :
    (let s : State := { State.reset with link := .syncing, age := 62500 }
     s.params.silenceLimit ≤ 65000 ∧ s.ageOk ∧ (nextOf (exec .tick s)).isSome = true ∧ Instr.tick ≠ .scan) ∧
    (lastPulseMissed.params.silenceLimit ≤ 65000 ∧ lastPulseMissed.ageOk ∧
      (nextOf (exec .scan lastPulseMissed)).isSome = true ∧ lastPulseMissed.link ≠ .unavailable) ∧
    (let s : State := { lastPulseMissed with link := .unavailable, age := 62501 }
     s.params.silenceLimit + 1 + 0 < 65536 ∧ s.ageCounted 0 ∧
       (nextOf (exec .scan s)).map (lateAccepted 0 .scan s) = some 1) ∧
    (let s : State := { State.reset with link := .active, age := 65534, params := { P0 with silenceLimit := 65000 } }
     s.params.silenceLimit + 1 + 534 < 65536 ∧ s.ageCounted 534 ∧ (nextOf (exec .tick s)).map (·.age) = some 65535) := by
  decide

/-- A SCAN that accepts a Timestamp after the link was lost, AGE at its bound with every late frame to come; AGE at its
bound with none left; the tick that loses the link with nothing to come, and the acceptance of the only frame to come; no
packet in progress and 255 bytes unread; 12 bytes of a packet stored and 248 unread; AGE at SILENCE_LIMIT + 20. -/
theorem witness_AgeStaysWithinTheRing :
    (let s := presentNext 0 { lastPulseMissed with link := .unavailable, age := 62501 }
     s.params.silenceLimit ≤ 65000 ∧ s.Inv ∧ s.ageBounded ∧ (nextOf (step s)).map (·.link) = some .active) ∧
    { State.reset with age := 62521 }.ageBounded ∧
    (let s := presentNext 0b01100000000 { State.reset with link := .active, age := 62500 }
     s.params.silenceLimit + 1 + 0 < 65536 ∧ s.Inv ∧ s.ageWithin 0 ∧ lateFrames s = 0 ∧
       (nextOf (step s)).map (·.age) = some 62501) ∧
    (let s := presentNext 0 { lastPulseMissed with wr := lastPulseMissed.snap, link := .unavailable, age := 62501 }
     s.params.silenceLimit + 1 + 1 < 65536 ∧ s.Inv ∧ s.ageWithin 1 ∧ ¬ s.age.toNat ≤ s.params.silenceLimit ∧
       (nextOf (step s)).map (·.link) = some .active) ∧
    (let s : State := { State.reset with rd := 1 }
     framesApart s.params ∧ s.busy = false ∧ lateFrames s = 19) ∧
    (let s : State := { State.reset with rd := 8, ptype := .known .magTime, plen := 12 }
     framesApart s.params ∧ s.busy = false ∧ s.Inv ∧ lateFrames s = 20) ∧
    { State.reset with age := 62520 }.ageWithin 19 :=
  ⟨⟨by decide, inv_lastPulseMissed, by decide, by decide⟩, by decide,
    ⟨by decide, inv_reset, by decide, by decide, by decide⟩,
    ⟨by decide, inv_lastPulseMissed, by decide, by decide, by decide⟩, by decide,
    ⟨by decide, by decide,
      ⟨by decide, by decide, by decide, by decide, by unfold State.lengthBelowFrame; decide, by decide, by decide⟩, by decide⟩,
    by decide⟩

/-- Each cause moves LINK. -/
theorem witness_LinkTransitions :
    (nextOf (exec (.rxb 0) State.reset)).map (·.link) = some .syncing ∧
    (nextOf (exec .scan { lastPulseMissed with link := .syncing })).map (·.link) = some .active ∧
    (nextOf (exec .tick { State.reset with link := .active, age := 62500 })).map (·.link) = some .unavailable ∧
    (nextOf (exec .reset lastPulseMissed)).map (·.link) = some .unavailable ∧ lastPulseMissed.link = .active := by decide

/-- A pulse that does not count, one that counts, one that reaches zero. -/
theorem witness_PpsCountsThePulse :
    ¬ (State.reset.explen ≠ 0 ∧ State.reset.link = .active ∧ State.reset.cd ≠ .syncing) ∧
    (let s : State := { lastPulseMissed with remaining := 2 }
     (s.explen ≠ 0 ∧ s.link = .active ∧ s.cd ≠ .syncing) ∧ s.remaining ≠ 1) ∧
    (lastPulseMissed.explen ≠ 0 ∧ lastPulseMissed.link = .active ∧ lastPulseMissed.cd ≠ .syncing) ∧
    lastPulseMissed.remaining = 1 := by decide

theorem witness_DisabledSynchronizerDoesNothing : State.reset.explen = 0 := by decide

theorem witness_TriggersEveryNPulses :
    (3 : Byte) ≠ 0 ∧ (⟨12, 0, 9, 27, 7, 2012, true⟩ : Timestamp).seconds.toNat % (3 : Byte).toNat = 0 := by decide

/-- Each cause moves CD. -/
theorem witness_CountdownTransitions :
    (nextOf (exec (.cfg 1) lastPulseMissed)).map (·.cd) = some .syncing ∧
    (nextOf (exec .scan { lastPulseMissed with cd := .syncing })).map (·.cd) = some .enabled ∧
    (nextOf (exec .pps lastPulseMissed)).map (·.cd) = some .triggered ∧
    (nextOf (exec .scan { lastPulseMissed with cd := .triggered })).map (·.cd) = some .enabled := by decide

theorem witness_CodesOfRegistersAndEvents : (OutEvent.dbgSkip 4).errorKind = some .framingLoss := by decide

/-- Four events in one SCAN step. -/
theorem witness_AtMostFourEventsAnOperation :
    (nextOf (exec .scan lastPulseMissed)).map (·.trace) =
      some [.dbgMissedPulse, .trigger, .syncTs ⟨12, 34, 56, 27, 7, 2012, true⟩,
            .status ⟨12, 34, 56, 27, 7, 2012, true⟩ .active] := by decide

end Sys2Proof.Tests
end

section
/-! PROOFS. The invariant of 10_state R34 and what every operation leaves alone (10_state R33, 20_memory R48). -/

namespace Sys2Proof.Machine

/-! ## What each operation but SCAN can do -/

theorem exec_poll_next {s t : State} (h : exec .poll s = .next t) :
    s.busy = true ∧ t = s ∨ s.busy = false ∧ t = { s with snap := s.wr, busy := true, updated := false } := by
  cases h
  cases hb : s.busy
  · exact .inr ⟨rfl, rfl⟩
  · exact .inl ⟨rfl, rfl⟩

theorem exec_tick_next {s t : State} (h : exec .tick s = .next t) :
    s.link = .unavailable ∧ t = s ∨
    s.link ≠ .unavailable ∧ silent s.params (s.age + 1) = true ∧
      t = { s with age := s.age + 1, link := .unavailable, trace := s.trace ++ [.linkLost] } ∨
    s.link ≠ .unavailable ∧ silent s.params (s.age + 1) = false ∧ t = { s with age := s.age + 1 } := by
  cases h
  by_cases hl : s.link = .unavailable
  · exact .inl ⟨hl, if_neg (not_not.mpr hl)⟩
  · rw [if_pos hl]
    cases hs : silent s.params (s.age + 1)
    · exact .inr (.inr ⟨hl, rfl, rfl⟩)
    · exact .inr (.inl ⟨hl, rfl, rfl⟩)

theorem exec_pps_next {s t : State} (h : exec .pps s = .next t) :
    t = s ∨ s.explen ≠ 0 ∧ t = { countdownStep s with cd := .triggered } := by
  cases h
  split
  · exact .inr ⟨(‹_ ∧ _›).1, rfl⟩
  · exact .inl rfl

/-- A signature performed outside a SCAN starts its packet where the synchronizer runs. -/
theorem exec_signature_next {i : Instr} {s t : State} (hi : eventOf i = none) (h : exec i s = .next t) :
    t = s ∨ ∃ c, synchronizing s ∧ t = recognise c s := by
  have key : ∀ c, Host.Outcome.next (if synchronizing s then recognise c s else s) = (.next t : Result) →
      t = s ∨ ∃ c, synchronizing s ∧ t = recognise c s := by
    intro c hc
    cases hc
    split
    · exact .inr ⟨c, ‹_›, rfl⟩
    · exact .inl rfl
  cases i with
  | magTime w3 => exact key .magTime h
  | magStatus w3 => exact key .magStatus h
  | trimble => exact key .trimble h
  | _ => cases hi

/-- An event word never selects a signature (30_encoding R61, R67). -/
theorem eventOf_decodeEvent (w : EventWord) : eventOf (decodeEvent w) ≠ none := by
  unfold decodeEvent
  split_ifs <;> exact Option.some_ne_none _

/-- All a step can do: nothing, or the operation presented with its word consumed (70_reset_and_hazards R225). -/
theorem step_next {s t : State} (h : step s = .next t) :
    t = s ∨ ∃ i rest, eventOf i ≠ none ∧ exec i { s with input := rest } = .next t := by
  unfold step fetchEvent at h
  cases hin : s.input with
  | nil => rw [hin] at h; cases h; exact .inl rfl
  | cons w rest => rw [hin] at h; exact .inr ⟨_, rest, eventOf_decodeEvent w, h⟩

/-! ## How a packet ends -/

/-- The last stored byte that a Timestamp needs: ETX after DLE, or MG_LF; a status packet holds no Timestamp
(42_trimble_decoder R118, 43_magellan_decoder R132). -/
def endsInTerminator (c : PacketClass) (s : State) : Prop :=
  match c with
  | .trimble => s.pkt.read 20 = s.params.etx
  | .magTime => s.pkt.read 12 = s.params.mgLf
  | .magStatus => False

/-- TB_FINISH or MG_FINISH. -/
def finish (c : PacketClass) (s : State) : State :=
  match c with
  | .trimble => tbFinish s
  | .magTime => mgFinish .magTime s
  | .magStatus => mgFinish .magStatus s

/-- The four ways a packet of class `c` can end: with an error reported, with its Timestamp accepted, with a new lock
state, or with the lock state it found. -/
inductive Finishes (c : PacketClass) (s : State) : State → Prop
  | rejected (e : OutEvent) : Finishes c s (finishedRejected e s)
  | accepted (ts : Timestamp) : endsInTerminator c s → Finishes c s (finishedAccepted ts s)
  | relocked (l : Bool) :
      Finishes c s (finished { s with magLocked := l, curTs := { s.curTs with locked := l }, updated := true }
        (s.trace ++ [.status { s.curTs with locked := l } s.link]))
  | unchanged : Finishes c s (finished s (s.trace ++ statusOwed s.updated s.curTs s.link))

theorem mgFinish_of_bad_terminator {c : PacketClass} {s : State} (h : s.pkt.read (frameLen c - 1) ≠ s.params.mgLf) :
    mgFinish c s = finishedRejected (.dbgMalformed (pktBytes s (frameLen c))) s := by
  unfold mgFinish
  dsimp only
  rw [if_pos h, endPoll_pktReset_emit]

theorem finishes_tbFinish (s : State) : Finishes .trimble s (tbFinish s) := by
  obtain ⟨ht, e⟩ | ⟨-, e⟩ := tbFinish_cases s <;> rw [e]
  · refine .accepted _ ?_
    simp only [trimbleTerminated, Bool.and_eq_true, beq_iff_eq] at ht
    exact ht.2
  · exact .rejected _

theorem finishes_mgFinish {c : PacketClass} (hc : c ≠ .trimble) (s : State) : Finishes c s (mgFinish c s) := by
  by_cases hlf : s.pkt.read (frameLen c - 1) = s.params.mgLf
  · obtain ⟨e, -, h⟩ | ⟨ts, hs, -, h⟩ | ⟨l, -, -, h⟩ | ⟨-, h⟩ := mgFinish_cases c s <;> rw [h]
    · exact .rejected e
    · refine .accepted ts ?_
      cases c with
      | magTime => exact hlf
      | magStatus => exact absurd rfl hs
      | trimble => exact absurd rfl hc
    · exact .relocked l
    · exact .unchanged
  · rw [mgFinish_of_bad_terminator hlf]
    exact .rejected _

theorem finishes_finish (c : PacketClass) (s : State) : Finishes c s (finish c s) := by
  cases c with
  | trimble => exact finishes_tbFinish s
  | magTime => exact finishes_mgFinish (by decide) s
  | magStatus => exact finishes_mgFinish (by decide) s

/-- However a packet ends, it is reset and the poll call ended, and the two memories, their cursors, AGE, EXPLEN, the
parameters and the input are as they were. -/
theorem Finishes.frame {c : PacketClass} {s t : State} (h : Finishes c s t) :
    t = { s with busy := false, updated := t.updated, ptype := .unknown, plen := 0, esc := false, link := t.link,
                 cd := t.cd, remaining := t.remaining, recordSync := t.recordSync, magLocked := t.magLocked,
                 curTs := t.curTs, syncTs := t.syncTs, trace := t.trace } := by
  cases h with
  | rejected e => rfl
  | accepted ts => rw [finishedAccepted, acceptTs_frame]; rfl
  | relocked l => rfl
  | unchanged => rfl

/-- Only an accepted Timestamp moves LINK (44_link_state R157). -/
theorem Finishes.link {c : PacketClass} {s t : State} (h : Finishes c s t) :
    t.link = s.link ∨ endsInTerminator c s ∧ t.link = .active := by
  cases h with
  | rejected e => exact .inl rfl
  | accepted ts ht =>
    refine .inr ⟨ht, ?_⟩
    rw [finishedAccepted, acceptTs_frame]
    rfl
  | relocked l => exact .inl rfl
  | unchanged => exact .inl rfl

/-- All a SCAN step can do, in any state: a decoder step moves RD and the packet in progress, and then may end it. -/
theorem exec_scan_next {s t : State} (h : exec .scan s = .next t) :
    t = s ∨ t = endPoll s ∨ t = skipByte s ∨ (∃ c, synchronizing s ∧ t = recognise c s) ∨
    ∃ (c : PacketClass) (rd : Byte) (pkt : Memory) (plen : BitVec 5) (esc : Bool),
      s.ptype = .known c ∧ (s.pkt.wf pktCap → pkt.wf pktCap) ∧ (c ≠ .trimble → esc = s.esc) ∧
      ((s.plen.toNat < frameLen c → plen.toNat < frameLen c) ∧
          t = { s with rd := rd, pkt := pkt, plen := plen, esc := esc } ∨
        Finishes c { s with rd := rd, pkt := pkt, plen := plen, esc := esc } t) := by
  obtain ⟨-, e⟩ | ⟨-, -, e⟩ | ⟨-, -, e⟩ | ⟨c, hs, -, e⟩ | ⟨c, u, hd, hu, hw, he, ht⟩ := execScan_next h
  · exact .inl e
  · exact .inr (.inl e)
  · exact .inr (.inr (.inl e))
  · exact .inr (.inr (.inr (.inl ⟨c, hs, e⟩)))
  · refine .inr (.inr (.inr (.inr ⟨c, u.rd, u.pkt, u.plen, u.esc, hd.2.2, hw, he, ?_⟩)))
    rw [← hu]
    obtain ⟨hp, rfl⟩ | ⟨rfl, rfl⟩ | ⟨hc, rfl⟩ := ht
    · exact .inl ⟨hp, rfl⟩
    · exact .inr (finishes_tbFinish u)
    · exact .inr (finishes_mgFinish hc u)

/-! ## The invariant, part by part -/

/-- The clauses on the packet in progress (10_state R34 (a) to (c)). -/
abbrev State.packetOk (s : State) : Prop := s.unknownIsEmpty ∧ s.escapeIsTrimble ∧ s.lengthBelowFrame

/-- The clauses on the countdown (45_countdown R169, R176). -/
abbrev State.countdownOk (s : State) : Prop := s.remainingOk ∧ s.disabledIsSyncing

theorem State.inv_iff (s : State) : s.Inv ↔ (s.ringOk ∧ s.scratchOk) ∧ s.packetOk ∧ s.countdownOk := by
  unfold State.Inv State.packetOk State.countdownOk
  tauto

/-- With no packet in progress the scratch is empty and nothing is held. -/
theorem packetOk_of_unknown {s : State} (hp : s.ptype = .unknown) (hn : s.plen = 0) (he : s.esc = false) : s.packetOk :=
  ⟨fun _ => ⟨hn, he⟩, fun _ => he, by simp only [State.lengthBelowFrame, hp]⟩

theorem packetOk_of_known {c : PacketClass} {s : State} (hp : s.ptype = .known c) (hn : s.plen.toNat < frameLen c)
    (he : c ≠ .trimble → s.esc = false) : s.packetOk := by
  refine ⟨fun h => ?_, fun h => he ?_, by simpa only [State.lengthBelowFrame, hp] using hn⟩
  · rw [hp] at h; cases h
  · rintro rfl
    rw [hp] at h
    revert h; decide

theorem lengthBelow_of_known {c : PacketClass} {s : State} (h : s.lengthBelowFrame) (hp : s.ptype = .known c) :
    s.plen.toNat < frameLen c := by
  simpa only [State.lengthBelowFrame, hp] using h

theorem frameLen_pos (c : PacketClass) : 0 < frameLen c := by cases c <;> decide

theorem packetOk_recognise (c : PacketClass) (s : State) : (recognise c s).packetOk := by
  rw [recognise_eq]
  exact packetOk_of_known rfl (frameLen_pos c) fun _ => rfl

/-- COUNTDOWN_STEP reloads at 1 and counts down above it, so REMAINING stays in 1..EXPLEN (45_countdown R168, R176). -/
theorem countdownStep_remainingOk {s : State} (h : s.remainingOk) (he : s.explen ≠ 0) :
    (countdownStep s).remainingOk := by
  obtain ⟨h0, -⟩ | ⟨hlo, hhi⟩ := h
  · exact absurd h0 he
  · rw [countdownStep_eq]
    refine .inr ?_
    split
    · exact ⟨by dsimp only; omega, le_refl _⟩
    · dsimp only
      bv_omega

theorem countdownStep_explen (s : State) : (countdownStep s).explen = s.explen := by
  rw [countdownStep_eq]; split <;> rfl

theorem cdOnTs_countdownOk (ts : Timestamp) {s : State} (h : s.countdownOk) : (cdOnTs ts s).countdownOk := by
  unfold cdOnTs
  split
  next he =>
    split
    · exact ⟨h.1, fun h0 => absurd h0 he⟩
    · refine ⟨countdownStep_remainingOk (s := emit .dbgMissedPulse s) h.1 he, fun h0 => absurd ?_ he⟩
      rwa [missedPulse, countdownStep_explen] at h0
    · split
      · exact ⟨h.1, fun h0 => absurd h0 he⟩
      · exact h
  next => exact h

theorem latchSync_countdownOk {s : State} (h : s.countdownOk) : (latchSync s).countdownOk := by
  rw [latchSync_eq]
  split <;> exact h

theorem acceptTs_countdownOk (ts : Timestamp) {s : State} (h : s.countdownOk) : (acceptTs ts s).countdownOk :=
  latchSync_countdownOk (cdOnTs_countdownOk ts (s := { s with curTs := ts, link := .active }) h)

/-- However a packet ends, the state it leaves has the invariant: no packet in progress, the memories as they stand. -/
theorem Finishes.inv {c : PacketClass} {s t : State} (h : Finishes c s t) (hr : s.ringOk) (hs : s.scratchOk)
    (hc : s.countdownOk) : t.Inv := by
  refine (State.inv_iff _).mpr ⟨?_, ?_, ?_⟩
  · rw [h.frame]; exact ⟨hr, hs⟩
  · rw [h.frame]; exact packetOk_of_unknown rfl rfl rfl
  · cases h with
    | rejected e => exact hc
    | accepted ts => exact acceptTs_countdownOk ts hc
    | relocked l => exact hc
    | unchanged => exact hc

theorem recognise_inv (c : PacketClass) {s : State} (h : s.Inv) : (recognise c s).Inv := by
  obtain ⟨hm, -, hc⟩ := s.inv_iff.mp h
  refine (State.inv_iff _).mpr ⟨?_, packetOk_recognise c s, ?_⟩ <;> rw [recognise_eq]
  · exact hm
  · exact hc

theorem exec_scan_inv {s t : State} (hi : s.Inv) (h : exec .scan s = .next t) : t.Inv := by
  obtain ⟨⟨hr, hs⟩, ⟨hu, he, hl⟩, hc⟩ := s.inv_iff.mp hi
  obtain rfl | rfl | rfl | ⟨c, -, rfl⟩ | ⟨c, rd, pkt, plen, esc, hp, hw, hesc, ⟨hlen, rfl⟩ | hf⟩ := exec_scan_next h
  · exact hi
  · rw [endPoll_eq]; exact hi
  · exact hi
  · exact recognise_inv c hi
  · refine (State.inv_iff _).mpr ⟨⟨hr, hw hs⟩, ?_, hc⟩
    refine packetOk_of_known hp (hlen (lengthBelow_of_known hl hp)) fun hne => (hesc hne).trans (he ?_)
    cases c with
    | magTime => exact .inl hp
    | magStatus => exact .inr hp
    | trimble => exact absurd rfl hne
  · exact hf.inv hr (hw hs) hc

/-- The reset state has the invariant, whatever stands outside the block. -/
theorem reset_inv (P : Params) (input : List EventWord) (trace : List OutEvent) :
    State.Inv { State.reset with params := P, input := input, trace := trace } :=
  (State.inv_iff _).mpr
    ⟨⟨Memory.wf_nil _, Memory.wf_nil _⟩, packetOk_of_unknown rfl rfl rfl, .inl ⟨rfl, rfl⟩, fun _ => rfl⟩

/-- Every operation keeps the invariant, those that no event word selects included. -/
theorem exec_inv {i : Instr} {s t : State} (hi : s.Inv) (h : exec i s = .next t) : t.Inv := by
  have signature : eventOf i = none → t.Inv := by
    intro hev
    obtain rfl | ⟨c, -, rfl⟩ := exec_signature_next hev h
    · exact hi
    · exact recognise_inv c hi
  obtain ⟨⟨hr, hs⟩, hp, hrem, hdis⟩ := s.inv_iff.mp hi
  cases i with
  | scan => exact exec_scan_inv hi h
  | poll => obtain ⟨-, rfl⟩ | ⟨-, rfl⟩ := exec_poll_next h <;> exact hi
  | cfg n =>
    cases h
    refine (State.inv_iff _).mpr ⟨⟨hr, hs⟩, hp, ?_, fun _ => rfl⟩
    by_cases hn : n = 0
    · exact .inl ⟨hn, hn⟩
    · exact .inr ⟨by dsimp only; bv_omega, le_refl _⟩
  | tick => obtain ⟨-, rfl⟩ | ⟨-, -, rfl⟩ | ⟨-, -, rfl⟩ := exec_tick_next h <;> exact hi
  | pps =>
    obtain rfl | ⟨he, rfl⟩ := exec_pps_next h
    · exact hi
    · have hcd := countdownStep_remainingOk hrem he
      have hex := countdownStep_explen s
      refine (State.inv_iff _).mpr ⟨?_, ?_, hcd, fun h0 => absurd (hex.symm.trans h0) he⟩ <;>
        rw [countdownStep_eq] <;> split
      · exact ⟨hr, hs⟩
      · exact ⟨hr, hs⟩
      · exact hp
      · exact hp
  | rxb b => cases h; exact (State.inv_iff _).mpr ⟨⟨Memory.wf_write hr s.wr.isLt b, hs⟩, hp, hrem, hdis⟩
  | reserved6 => cases h; exact hi
  | reset => cases h; exact reset_inv _ _ _
  | magTime w3 => exact signature rfl
  | magStatus w3 => exact signature rfl
  | trimble => exact signature rfl

/-- Settles O11. -/
theorem resetStateSatisfiesInvariant : Obligations.ResetStateSatisfiesInvariant := reset_inv _ _ _

/-- Settles O12: every operation keeps the invariant, and taking the word presented does not touch it. -/
theorem stepKeepsInvariant : Obligations.StepKeepsInvariant := by
  intro s t hi h
  obtain rfl | ⟨i, rest, -, h⟩ := step_next h
  · exact hi
  · exact exec_inv (s := { s with input := rest }) hi h

end Sys2Proof.Machine
end

section
/-! PROOFS. What every operation leaves alone: the parameters, the input and the trace so far (10_state R33), and the
elements that its context may not write (10_state R10, 20_memory R48). -/

namespace Sys2Proof.Machine

/-! ## The trace only grows -/

theorem countdownStep_trace (s : State) : s.trace <+: (countdownStep s).trace := by
  rw [countdownStep_eq]
  split
  · exact List.prefix_append _ _
  · exact List.prefix_refl _

theorem cdOnTs_trace (ts : Timestamp) (s : State) : s.trace <+: (cdOnTs ts s).trace := by
  unfold cdOnTs
  split
  · split
    · exact List.prefix_refl _
    · exact (List.prefix_append _ _).trans (countdownStep_trace (emit .dbgMissedPulse s))
    · split <;> exact List.prefix_refl _
  · exact List.prefix_refl _

theorem latchSync_trace (s : State) : s.trace <+: (latchSync s).trace := by
  rw [latchSync_eq]
  split
  · exact List.prefix_append _ _
  · exact List.prefix_refl _

theorem acceptTs_trace (ts : Timestamp) (s : State) : s.trace <+: (acceptTs ts s).trace :=
  (cdOnTs_trace ts { s with curTs := ts, link := .active }).trans (latchSync_trace _)

theorem Finishes.trace {c : PacketClass} {s t : State} (h : Finishes c s t) : s.trace <+: t.trace := by
  cases h with
  | rejected e => exact List.prefix_append _ _
  | accepted ts => exact (acceptTs_trace ts s).trans (List.prefix_append _ _)
  | relocked l => exact List.prefix_append _ _
  | unchanged => exact List.prefix_append _ _

theorem exec_scan_trace {s t : State} (h : exec .scan s = .next t) : s.trace <+: t.trace := by
  obtain rfl | rfl | rfl | ⟨c, -, rfl⟩ | ⟨c, rd, pkt, plen, esc, -, -, -, ⟨-, rfl⟩ | hf⟩ := exec_scan_next h
  · exact List.prefix_refl _
  · rw [endPoll_eq]; exact List.prefix_append _ _
  · exact List.prefix_refl _
  · rw [recognise_eq]; exact List.prefix_append _ _
  · exact List.prefix_refl _
  · exact hf.trace

theorem exec_trace {i : Instr} {s t : State} (h : exec i s = .next t) : s.trace <+: t.trace := by
  have signature : eventOf i = none → s.trace <+: t.trace := by
    intro hev
    obtain rfl | ⟨c, -, rfl⟩ := exec_signature_next hev h
    · exact List.prefix_refl _
    · rw [recognise_eq]; exact List.prefix_append _ _
  cases i with
  | scan => exact exec_scan_trace h
  | poll => obtain ⟨-, rfl⟩ | ⟨-, rfl⟩ := exec_poll_next h <;> exact List.prefix_refl _
  | cfg n => cases h; exact List.prefix_refl _
  | tick =>
    obtain ⟨-, rfl⟩ | ⟨-, -, rfl⟩ | ⟨-, -, rfl⟩ := exec_tick_next h
    · exact List.prefix_refl _
    · exact List.prefix_append _ _
    · exact List.prefix_refl _
  | pps =>
    obtain rfl | ⟨-, rfl⟩ := exec_pps_next h
    · exact List.prefix_refl _
    · exact countdownStep_trace s
  | rxb b => cases h; exact List.prefix_refl _
  | reserved6 => cases h; exact List.prefix_refl _
  | reset => cases h; exact List.prefix_refl _
  | magTime w3 => exact signature rfl
  | magStatus w3 => exact signature rfl
  | trimble => exact signature rfl

/-! ## What each context writes -/

/-- The elements that the polling context may write (10_state R10), and the trace. -/
abbrev PollingFrame (s t : State) : Prop :=
  t = { s with rd := t.rd, snap := t.snap, busy := t.busy, updated := t.updated, ptype := t.ptype, plen := t.plen,
               pkt := t.pkt, esc := t.esc, skip := t.skip, link := t.link, cd := t.cd, remaining := t.remaining,
               recordSync := t.recordSync, magLocked := t.magLocked, curTs := t.curTs, syncTs := t.syncTs,
               trace := t.trace }

/-- The elements that the interrupt context may write (10_state R10), and the trace. -/
abbrev InterruptFrame (s t : State) : Prop :=
  t = { s with buf := t.buf, wr := t.wr, link := t.link, age := t.age, cd := t.cd, remaining := t.remaining,
               recordSync := t.recordSync, trace := t.trace }

theorem Finishes.pollingFrame {c : PacketClass} {s t : State} (h : Finishes c s t) : PollingFrame s t := by
  rw [h.frame]

theorem recognise_pollingFrame (c : PacketClass) (s : State) : PollingFrame s (recognise c s) := by
  rw [recognise_eq]

theorem exec_scan_pollingFrame {s t : State} (h : exec .scan s = .next t) : PollingFrame s t := by
  obtain rfl | rfl | rfl | ⟨c, -, rfl⟩ | ⟨c, rd, pkt, plen, esc, -, -, -, ⟨-, rfl⟩ | hf⟩ := exec_scan_next h
  · rfl
  · rw [endPoll_eq]
  · rfl
  · exact recognise_pollingFrame c s
  · rfl
  · exact hf.pollingFrame

theorem exec_pollingFrame {i : Instr} {s t : State} (hi : i.context = .polling) (h : exec i s = .next t) :
    PollingFrame s t := by
  have signature : eventOf i = none → PollingFrame s t := by
    intro hev
    obtain rfl | ⟨c, -, rfl⟩ := exec_signature_next hev h
    · rfl
    · exact recognise_pollingFrame c s
  cases i with
  | scan => exact exec_scan_pollingFrame h
  | poll => obtain ⟨-, rfl⟩ | ⟨-, rfl⟩ := exec_poll_next h <;> rfl
  | magTime w3 => exact signature rfl
  | magStatus w3 => exact signature rfl
  | trimble => exact signature rfl
  | _ => cases hi

/-- TICK and PPS write no byte and no cursor; RXB does. -/
theorem exec_interruptFrame {i : Instr} {s t : State} (hi : i.context = .interrupt) (h : exec i s = .next t) :
    InterruptFrame s t ∧ ((∀ b, i ≠ .rxb b) → t.wr = s.wr ∧ t.buf = s.buf) := by
  cases i with
  | tick =>
    obtain ⟨-, rfl⟩ | ⟨-, -, rfl⟩ | ⟨-, -, rfl⟩ := exec_tick_next h <;> exact ⟨rfl, fun _ => ⟨rfl, rfl⟩⟩
  | pps =>
    obtain rfl | ⟨-, rfl⟩ := exec_pps_next h
    · exact ⟨rfl, fun _ => ⟨rfl, rfl⟩⟩
    · rw [countdownStep_eq]
      split <;> exact ⟨rfl, fun _ => ⟨rfl, rfl⟩⟩
  | rxb b => cases h; exact ⟨rfl, fun hne => absurd rfl (hne b)⟩
  | _ => cases hi

/-- Only RXB and RESET write the ring or its write cursor. -/
theorem exec_wr_buf {i : Instr} {s t : State} (h : exec i s = .next t) (hrx : ∀ b, i ≠ .rxb b) (hrst : i ≠ .reset) :
    t.wr = s.wr ∧ t.buf = s.buf := by
  cases hc : i.context with
  | interrupt => exact (exec_interruptFrame hc h).2 hrx
  | polling => rw [exec_pollingFrame hc h]; exact ⟨rfl, rfl⟩
  | config => cases i <;> cases hc; cases h; exact ⟨rfl, rfl⟩
  | reset => cases i <;> cases hc; exact absurd rfl hrst
  | none => cases i <;> cases hc; cases h; exact ⟨rfl, rfl⟩

/-- No operation writes the parameters or the input (10_state R33). -/
theorem exec_params_input {i : Instr} {s t : State} (h : exec i s = .next t) :
    t.params = s.params ∧ t.input = s.input := by
  cases hc : i.context with
  | interrupt => rw [(exec_interruptFrame hc h).1]; exact ⟨rfl, rfl⟩
  | polling => rw [exec_pollingFrame hc h]; exact ⟨rfl, rfl⟩
  | config => cases i <;> cases hc; cases h; exact ⟨rfl, rfl⟩
  | reset => cases i <;> cases hc; cases h; exact ⟨rfl, rfl⟩
  | none => cases i <;> cases hc; cases h; exact ⟨rfl, rfl⟩

/-- Settles O14. -/
theorem operationsKeepParametersInputAndTrace : Obligations.OperationsKeepParametersInputAndTrace := by
  intro i s t h
  obtain ⟨hp, hin⟩ := exec_params_input h
  obtain ⟨new, hnew⟩ := exec_trace h
  exact ⟨hp, hin, new, hnew.symm⟩

/-- Settles O15, context by context. -/
theorem contextsWriteOnlyTheirElements : Obligations.ContextsWriteOnlyTheirElements := by
  intro i s t h
  refine ⟨fun hc => (exec_interruptFrame hc h).1, fun hc => exec_pollingFrame hc h, fun hc => ?_, fun hc => ?_,
    fun hrx hrst => ?_⟩
  · cases i <;> cases hc; cases h; rfl
  · cases i <;> cases hc; cases h; rfl
  · obtain ⟨hwr, hbuf⟩ := exec_wr_buf h hrx hrst
    exact ⟨hwr, fun a => by rw [hbuf]⟩

end Sys2Proof.Machine
end

section
/-! PROOFS. A decoder step as one move: what it takes from the byte under RD, then the packet's end when it is full
(42_trimble_decoder R116, R117, 43_magellan_decoder R131). -/

namespace Sys2Proof.Machine

/-- Stores bytes from an address on. -/
def Memory.writeBytes (m : Memory) (a : Nat) (bytes : List Byte) : Memory :=
  match bytes with
  | [] => m
  | b :: rest => Memory.writeBytes (m.write a b) (a + 1) rest

/-- Memories that agree below an address agree below the end of the bytes stored there. -/
theorem Memory.read_writeBytes_congr (bytes : List Byte) : ∀ {m m' : Memory} {n : Nat},
    (∀ a, a < n → m'.read a = m.read a) →
    ∀ a, a < n + bytes.length → (m'.writeBytes n bytes).read a = (m.writeBytes n bytes).read a := by
  induction bytes with
  | nil => exact fun h => h
  | cons b rest ih =>
    intro m m' n h a ha
    refine ih (fun k hk => ?_) a (by simp only [List.length_cons] at ha; omega)
    rw [Memory.read_write, Memory.read_write]
    split
    · rfl
    · exact h k (by omega)

theorem Memory.read_writeBytes_last (pre : List Byte) (v : Byte) : ∀ (m : Memory) (n : Nat),
    (m.writeBytes n (pre ++ [v])).read (n + pre.length) = v := by
  induction pre with
  | nil => exact fun m n => Memory.read_write_self m n v
  | cons b rest ih =>
    intro m n
    have hlen : n + (b :: rest).length = n + 1 + rest.length := by simp only [List.length_cons]; omega
    rw [hlen]
    exact ih _ _

/-- What a decoder step does before the packet may end. -/
structure DecoderMove where
  /-- RD moves on: the byte is consumed. -/
  consumes : Bool
  /-- ESC after the step. -/
  holds : Bool
  /-- The bytes stored in the scratch memory. -/
  stores : List Byte

/-- The move of a decoder step for a packet of class `c`. A held lone DLE that fills the frame leaves the byte under RD
unconsumed. -/
def decoderMove (c : PacketClass) (s : State) : DecoderMove :=
  let b := s.buf.read s.rd.toNat
  let dle := s.params.dle
  match c with
  | .trimble =>
    if s.esc then
      if b = dle then ⟨true, false, [dle]⟩
      else if s.plen.toNat = 20 then ⟨false, false, [dle]⟩
      else ⟨true, false, [dle, b]⟩
    else if b = dle then ⟨true, true, []⟩
    else ⟨true, false, [b]⟩
  | .magTime => ⟨true, s.esc, [b]⟩
  | .magStatus => ⟨true, s.esc, [b]⟩

/-- The state after a move. -/
def DecoderMove.apply (d : DecoderMove) (s : State) : State :=
  { s with rd := if d.consumes then s.rd + 1 else s.rd, esc := d.holds, pkt := s.pkt.writeBytes s.plen.toNat d.stores,
           plen := s.plen + BitVec.ofNat 5 d.stores.length }

/-- The state after a decoder step's move, before the packet may end. -/
def afterMove (c : PacketClass) (s : State) : State := (decoderMove c s).apply s

/-- The five moves of the Trimble decoder (42_trimble_decoder R116): hold a DLE, store a byte, store a doubled DLE, and a
lone DLE, stored with the byte after it or as the last of its frame. -/
theorem decoderMove_trimble (s : State) :
    let b := s.buf.read s.rd.toNat
    let dle := s.params.dle
    (s.esc = false ∧ b = dle ∧ decoderMove .trimble s = ⟨true, true, []⟩) ∨
    (s.esc = false ∧ b ≠ dle ∧ decoderMove .trimble s = ⟨true, false, [b]⟩) ∨
    (s.esc = true ∧ b = dle ∧ decoderMove .trimble s = ⟨true, false, [dle]⟩) ∨
    (s.esc = true ∧ b ≠ dle ∧ s.plen.toNat = 20 ∧ decoderMove .trimble s = ⟨false, false, [dle]⟩) ∨
    (s.esc = true ∧ b ≠ dle ∧ s.plen.toNat ≠ 20 ∧ decoderMove .trimble s = ⟨true, false, [dle, b]⟩) := by
  intro b dle
  by_cases hb : b = dle
  · cases he : s.esc <;> simp [decoderMove, b, dle, he, hb]
  · cases he : s.esc
    · simp [decoderMove, b, dle, he, hb]
    · by_cases hn : s.plen.toNat = 20 <;> simp [decoderMove, b, dle, he, hb, hn]

theorem frameLen_le (c : PacketClass) : frameLen c ≤ pktCap := by cases c <;> decide

/-- A move never stores past the end of the frame. -/
theorem decoderMove_stores_le {c : PacketClass} {s : State} (h : s.plen.toNat < frameLen c) :
    s.plen.toNat + (decoderMove c s).stores.length ≤ frameLen c := by
  cases c with
  | magTime => exact h
  | magStatus => exact h
  | trimble =>
    simp only [frameLen, tbLen] at h ⊢
    obtain ⟨-, -, e⟩ | ⟨-, -, e⟩ | ⟨-, -, e⟩ | ⟨-, -, -, e⟩ | ⟨-, -, hn, e⟩ := decoderMove_trimble s <;>
      simp only [e, List.length_cons, List.length_nil] <;> omega

theorem afterMove_plen {c : PacketClass} {s : State} (h : s.plen.toNat < frameLen c) :
    (afterMove c s).plen.toNat = s.plen.toNat + (decoderMove c s).stores.length := by
  have hle := decoderMove_stores_le h
  have hcap := frameLen_le c
  simp only [pktCap] at hcap
  show (s.plen + BitVec.ofNat 5 (decoderMove c s).stores.length).toNat = _
  rw [BitVec.toNat_add, BitVec.toNat_ofNat]
  omega

/-- The Trimble decoder's step as a move. -/
theorem trimbleStep_eq {s : State} (h : s.plen.toNat < tbLen) :
    trimbleStep s =
      .next (if (afterMove .trimble s).plen.toNat = tbLen then tbFinish (afterMove .trimble s) else afterMove .trimble s) := by
  rw [afterMove_plen h]
  simp only [tbLen] at h ⊢
  unfold afterMove decoderMove
  dsimp only
  obtain ⟨he, hb, e⟩ | ⟨he, hb, e⟩ | ⟨he, hb, e⟩ | ⟨he, hb, hn, e⟩ | ⟨he, hb, hn, e⟩ := trimbleStep_cases h <;>
    rw [e] <;> simp only [he, hb, if_true, if_false, Bool.false_eq_true, List.length_cons, List.length_nil]
  · rw [if_neg (by omega)]; simp [DecoderMove.apply, Memory.writeBytes]
  · exact congrArg _ (if_congr (by omega) rfl rfl)
  · exact congrArg _ (if_congr (by omega) rfl rfl)
  · rw [if_pos hn, if_pos (by simp only [List.length_cons, List.length_nil]; omega)]; rfl
  · have h2 : s.plen + 1 + 1 = s.plen + BitVec.ofNat 5 2 := BitVec.add_assoc _ _ _
    rw [h2]
    simp only [Nat.ne_of_lt hn, if_false, List.length_cons, List.length_nil]
    exact congrArg _ (if_congr (by omega) rfl rfl)

/-- A decoder step is its move, and the packet's end where the move has filled the frame. -/
theorem exec_scan_decoding {c : PacketClass} {s : State} (hd : decoding c s) (h : s.plen.toNat < frameLen c) :
    exec .scan s =
      .next (if (afterMove c s).plen.toNat = frameLen c then finish c (afterMove c s) else afterMove c s) := by
  rw [execScan_of_decoding hd]
  have hcap : s.plen.toNat < pktCap := lt_of_lt_of_le h (frameLen_le c)
  cases c with
  | trimble => exact trimbleStep_eq h
  | magTime => rw [afterMove_plen h]; exact magellanStep_eq hcap
  | magStatus => rw [afterMove_plen h]; exact magellanStep_eq hcap

end Sys2Proof.Machine
end

section
/-! PROOFS. No SCAN reads a scratch cell at PLEN or above (10_state R19, U17): with another scratch memory that agrees below
PLEN every part of SCAN does the same, and the scratch memories agree below the new PLEN. -/

namespace Sys2Proof.Machine

/-- The state with another scratch memory. -/
def withPkt (m : Memory) (s : State) : State := { s with pkt := m }

@[simp] theorem withPkt_pkt (m : Memory) (s : State) : (withPkt m s).pkt = m := rfl
@[simp] theorem withPkt_plen (m : Memory) (s : State) : (withPkt m s).plen = s.plen := rfl
@[simp] theorem withPkt_params (m : Memory) (s : State) : (withPkt m s).params = s.params := rfl
@[simp] theorem withPkt_cd (m : Memory) (s : State) : (withPkt m s).cd = s.cd := rfl
@[simp] theorem withPkt_explen (m : Memory) (s : State) : (withPkt m s).explen = s.explen := rfl
@[simp] theorem withPkt_remaining (m : Memory) (s : State) : (withPkt m s).remaining = s.remaining := rfl
@[simp] theorem withPkt_recordSync (m : Memory) (s : State) : (withPkt m s).recordSync = s.recordSync := rfl
@[simp] theorem withPkt_magLocked (m : Memory) (s : State) : (withPkt m s).magLocked = s.magLocked := rfl

/-! ## What does not look at the scratch memory -/

theorem endPoll_withPkt (m : Memory) (s : State) : endPoll (withPkt m s) = withPkt m (endPoll s) := by
  rw [endPoll_eq, endPoll_eq]; rfl

theorem recognise_withPkt (c : PacketClass) (m : Memory) (s : State) :
    recognise c (withPkt m s) = withPkt m (recognise c s) := by
  rw [recognise_eq, recognise_eq]; rfl

theorem syncStep_withPkt (m : Memory) (s : State) : syncStep (withPkt m s) = withPkt m (syncStep s) := by
  have hw : classify (withPkt m s).params (window (withPkt m s)) = classify s.params (window s) := rfl
  unfold syncStep
  rw [hw]
  cases classify s.params (window s) with
  | none => rfl
  | some c => exact recognise_withPkt c m s

/-- The synchronizer stores nothing in the scratch memory. -/
theorem syncStep_scratch (s : State) : (syncStep s).pkt = s.pkt ∧ (syncStep s).plen.toNat ≤ s.plen.toNat := by
  unfold syncStep
  split
  · exact ⟨rfl, le_refl _⟩
  · rw [recognise_eq]
    exact ⟨rfl, Nat.zero_le _⟩

theorem countdownStep_withPkt (m : Memory) (s : State) :
    countdownStep (withPkt m s) = withPkt m (countdownStep s) := by
  rw [countdownStep_eq, countdownStep_eq, withPkt_remaining]
  split <;> rfl

theorem cdOnTs_withPkt (ts : Timestamp) (m : Memory) (s : State) : cdOnTs ts (withPkt m s) = withPkt m (cdOnTs ts s) := by
  unfold cdOnTs
  rw [withPkt_cd, withPkt_explen]
  split
  · cases s.cd with
    | triggered => rfl
    | enabled => exact countdownStep_withPkt m (emit .dbgMissedPulse s)
    | syncing => dsimp only; split <;> rfl
  · rfl

theorem latchSync_withPkt (m : Memory) (s : State) : latchSync (withPkt m s) = withPkt m (latchSync s) := by
  rw [latchSync_eq, latchSync_eq, withPkt_recordSync]
  split <;> rfl

theorem acceptTs_withPkt (ts : Timestamp) (m : Memory) (s : State) :
    acceptTs ts (withPkt m s) = withPkt m (acceptTs ts s) := by
  have h : latchSync (cdOnTs ts (withPkt m { s with curTs := ts, link := .active })) =
      withPkt m (latchSync (cdOnTs ts { s with curTs := ts, link := .active })) := by
    rw [cdOnTs_withPkt, latchSync_withPkt]
  exact congrArg (fun u : State => { u with updated := true }) h

/-! ## What looks at a full frame -/

section
variable {m : Memory} {s : State}

theorem pktBytes_withPkt {n : Nat} (hm : ∀ a, a < n → m.read a = s.pkt.read a) :
    pktBytes (withPkt m s) n = pktBytes s n :=
  List.map_congr_left fun a ha => hm a (List.mem_range.mp ha)

theorem checksum_withPkt {n : Nat} (hm : ∀ a, a < n → m.read a = s.pkt.read a) :
    checksum (withPkt m s) n = checksum s n := by
  refine List.foldl_ext _ _ _ fun c a ha => congrArg (c ^^^ ·) (hm a ?_)
  have := List.mem_range.mp (List.mem_of_mem_filter ha)
  omega

theorem trimbleTimestamp_withPkt (hm : ∀ a, a < tbLen → m.read a = s.pkt.read a) :
    trimbleTimestamp (withPkt m s) = trimbleTimestamp s := by
  have ho : ∀ o ∈ [s.params.tbOffStatus, s.params.tbOffSec, s.params.tbOffMin, s.params.tbOffHour, s.params.tbOffDay,
      s.params.tbOffMonth, s.params.tbOffYearHi, s.params.tbOffYearLo], readPkt (withPkt m s) o = readPkt s o :=
    fun o _ => hm o o.isLt
  simp only [List.forall_mem_cons] at ho
  obtain ⟨hst, hsec, hmin, hhour, hday, hmon, hhi, hlo, -⟩ := ho
  simp only [trimbleTimestamp, withPkt_params, hst, hsec, hmin, hhour, hday, hmon, hhi, hlo]

theorem magellanTimestamp_withPkt (hP : s.params.ok) (hm : ∀ a, a < mgLenTime → m.read a = s.pkt.read a) :
    magellanTimestamp (withPkt m s) = magellanTimestamp s := by
  obtain ⟨-, htime, -⟩ := hP
  have ho : ∀ o ∈ [s.params.mtOffHour, s.params.mtOffMin, s.params.mtOffSec, s.params.mtOffDay, s.params.mtOffMonth,
      s.params.mtOffYear], readPkt (withPkt m s) o = readPkt s o :=
    fun o h => hm o (htime o h)
  simp only [List.forall_mem_cons] at ho
  obtain ⟨hhour, hmin, hsec, hday, hmon, hyear, -⟩ := ho
  simp only [magellanTimestamp, magellanDate, withPkt_params, withPkt_magLocked, hhour, hmin, hsec, hday, hmon, hyear]

theorem tbFinish_withPkt (hm : ∀ a, a < tbLen → m.read a = s.pkt.read a) :
    tbFinish (withPkt m s) = withPkt m (tbFinish s) := by
  have ht : trimbleTerminated (withPkt m s) = trimbleTerminated s := by
    have h19 : (withPkt m s).pkt.read (tbLen - 2) = s.pkt.read (tbLen - 2) := hm _ (by decide)
    have h20 : (withPkt m s).pkt.read (tbLen - 1) = s.pkt.read (tbLen - 1) := hm _ (by decide)
    unfold trimbleTerminated
    rw [h19, h20]
    rfl
  unfold tbFinish
  rw [ht, trimbleTimestamp_withPkt hm, pktBytes_withPkt hm, acceptTs_withPkt]
  split
  · exact endPoll_withPkt m (pktReset (acceptTs _ s))
  · exact endPoll_withPkt m (pktReset (emit _ s))

theorem mgTimeAccept_withPkt (hP : s.params.ok) (hm : ∀ a, a < mgLenTime → m.read a = s.pkt.read a) :
    mgTimeAccept (withPkt m s) = withPkt m (mgTimeAccept s) := by
  unfold mgTimeAccept
  rw [magellanTimestamp_withPkt hP hm, pktBytes_withPkt hm]
  cases magellanTimestamp s with
  | none => rfl
  | some ts => exact acceptTs_withPkt ts m s

theorem mgStatusAccept_withPkt (hP : s.params.ok) (hm : ∀ a, a < mgLenStatus → m.read a = s.pkt.read a) :
    mgStatusAccept (withPkt m s) = withPkt m (mgStatusAccept s) := by
  obtain ⟨-, -, hlock, -⟩ := hP
  have hr : readPkt (withPkt m s) s.params.msOffLock = readPkt s s.params.msOffLock := hm _ hlock
  unfold mgStatusAccept
  rw [withPkt_params, hr, withPkt_magLocked]
  dsimp only
  split <;> rfl

theorem mgFinish_withPkt {c : PacketClass} (hc : c ≠ .trimble) (hP : s.params.ok)
    (hm : ∀ a, a < frameLen c → m.read a = s.pkt.read a) :
    mgFinish c (withPkt m s) = withPkt m (mgFinish c s) := by
  have hpos := frameLen_pos c
  have hlast : (withPkt m s).pkt.read (frameLen c - 1) = s.pkt.read (frameLen c - 1) := hm _ (by omega)
  have hsum : (withPkt m s).pkt.read (frameLen c - 2) = s.pkt.read (frameLen c - 2) := hm _ (by omega)
  unfold mgFinish
  dsimp only
  rw [hlast, hsum, withPkt_params, checksum_withPkt hm, pktBytes_withPkt hm]
  split
  · exact endPoll_withPkt m (pktReset (emit _ s))
  · split
    · exact endPoll_withPkt m (pktReset (emit _ s))
    · cases c with
      | magStatus =>
        rw [if_pos rfl, if_pos rfl, mgStatusAccept_withPkt hP hm]
        exact endPoll_withPkt m (pktReset _)
      | magTime =>
        rw [if_neg (by decide), if_neg (by decide), mgTimeAccept_withPkt hP hm]
        exact endPoll_withPkt m (pktReset _)
      | trimble => exact absurd rfl hc

theorem finish_withPkt {c : PacketClass} (hP : s.params.ok) (hm : ∀ a, a < frameLen c → m.read a = s.pkt.read a) :
    finish c (withPkt m s) = withPkt m (finish c s) := by
  cases c with
  | trimble => exact tbFinish_withPkt hm
  | magTime => exact mgFinish_withPkt (by decide) hP hm
  | magStatus => exact mgFinish_withPkt (by decide) hP hm

end

/-! ## SCAN -/

theorem Finishes.plen {c : PacketClass} {s t : State} (h : Finishes c s t) : t.plen = 0 := by
  rw [h.frame]

/-- A move does not look at the scratch memory, and stores the same bytes in any. -/
theorem afterMove_withPkt (c : PacketClass) (m : Memory) (s : State) :
    afterMove c (withPkt m s) =
      withPkt (m.writeBytes s.plen.toNat (decoderMove c s).stores) (afterMove c s) := rfl

/-- A decoder step does the same with another scratch memory that agrees below PLEN. -/
theorem exec_scan_decoding_withPkt {c : PacketClass} {m : Memory} {s : State} (hP : s.params.ok) (hd : decoding c s)
    (hn : s.plen.toNat < frameLen c) (hm : ∀ a, a < s.plen.toNat → m.read a = s.pkt.read a) :
    ∃ t m', exec .scan s = .next t ∧ exec .scan (withPkt m s) = .next (withPkt m' t) ∧
      ∀ a, a < t.plen.toNat → m'.read a = t.pkt.read a := by
  have hagree : ∀ a, a < (afterMove c s).plen.toNat →
      (m.writeBytes s.plen.toNat (decoderMove c s).stores).read a = (afterMove c s).pkt.read a := by
    rw [afterMove_plen hn]
    exact Memory.read_writeBytes_congr _ hm
  rw [exec_scan_decoding hd hn, exec_scan_decoding (s := withPkt m s) hd hn, afterMove_withPkt, withPkt_plen]
  refine ⟨_, m.writeBytes s.plen.toNat (decoderMove c s).stores, rfl, ?_, ?_⟩
  · split
    next hfull => exact congrArg _ (finish_withPkt (s := afterMove c s) hP fun a ha => hagree a (hfull ▸ ha))
    next => rfl
  · split
    · rw [(finishes_finish c (afterMove c s)).plen]
      exact fun a ha => absurd ha (Nat.not_lt_zero a)
    · exact hagree

theorem exec_scan_of_idle {s : State} (hb : s.busy = false) : exec .scan s = .next s := by
  simp only [exec, execScan, hb, Bool.false_eq_true, if_false]

theorem exec_scan_of_drained {s : State} (hb : s.busy = true) (hr : s.rd = s.snap) :
    exec .scan s = .next (endPoll s) := by
  simp only [exec, execScan, hb, hr, if_true]

theorem exec_scan_withPkt {m : Memory} {s : State} (hP : s.params.ok) (hl : s.lengthBelowFrame)
    (hm : ∀ a, a < s.plen.toNat → m.read a = s.pkt.read a) :
    ∃ t m', exec .scan s = .next t ∧ exec .scan (withPkt m s) = .next (withPkt m' t) ∧
      ∀ a, a < t.plen.toNat → m'.read a = t.pkt.read a := by
  cases hb : s.busy with
  | false => exact ⟨s, m, exec_scan_of_idle hb, exec_scan_of_idle (s := withPkt m s) hb, hm⟩
  | true =>
    by_cases hr : s.rd = s.snap
    · refine ⟨endPoll s, m, exec_scan_of_drained hb hr, ?_, ?_⟩
      · rw [← endPoll_withPkt]
        exact exec_scan_of_drained (s := withPkt m s) hb hr
      · simpa only [endPoll_plen, endPoll_pkt] using hm
    · cases hp : s.ptype with
      | unknown =>
        obtain ⟨hpkt, hplen⟩ := syncStep_scratch s
        refine ⟨syncStep s, m, execScan_of_synchronizing ⟨hb, hr, hp⟩, ?_, fun a ha => ?_⟩
        · rw [← syncStep_withPkt]
          exact execScan_of_synchronizing (s := withPkt m s) ⟨hb, hr, hp⟩
        · rw [hpkt]
          exact hm a (lt_of_lt_of_le ha hplen)
      | known c => exact exec_scan_decoding_withPkt hP ⟨hb, hr, hp⟩ (lengthBelow_of_known hl hp) hm

/-- Settles O27. -/
theorem staleScratchIsNeverRead : Obligations.StaleScratchIsNeverRead := by
  intro s m hP hi hm
  obtain ⟨-, ⟨-, -, hl⟩, -⟩ := s.inv_iff.mp hi
  obtain ⟨t, m', ht, ht', hagree⟩ := exec_scan_withPkt hP hl hm
  exact ⟨t, withPkt m' t, ht, ht', rfl, hagree⟩

end Sys2Proof.Machine
end

section
/-! PROOFS. The bound on AGE (10_state R34 (e), 44_link_state R153): above SILENCE_LIMIT every tick counted is paid for by a
Timestamp accepted before it, and an accepted Timestamp by the bytes of its frame. -/

namespace Sys2Proof.Machine

/-! ## Bytes to come, along a decoder step -/

theorem unread_succ {wr rd : Byte} (h : rd ≠ wr) : (wr - (rd + 1)).toNat + 1 = (wr - rd).toNat := by bv_omega

/-- The rewind of a match gives back at most two bytes. -/
theorem unread_rewind (wr rd : Byte) (c : PacketClass) : (wr - (rd - rewind c)).toNat ≤ (wr - rd).toNat + 2 := by
  cases c <;> simp only [rewind, mgRewind, tbRewind] <;> bv_omega

theorem frameBytes_of_unknown {s : State} (hp : s.ptype = .unknown) :
    frameBytes s = (s.wr - s.rd).toNat + bytesBehind s := by
  unfold frameBytes
  rw [hp]

/-- A full frame counts for the 13 bytes of a time packet at least. -/
theorem frameBytes_of_full {c : PacketClass} {s : State} (hp : s.ptype = .known c) (hn : s.plen.toNat = frameLen c) :
    (s.wr - s.rd).toNat + 13 ≤ frameBytes s := by
  unfold frameBytes
  rw [hp]
  cases c <;> simp only [hn, frameLen, mgLenTime, mgLenStatus, tbLen] <;> omega

/-! How many bytes behind RD may begin the next frame: those that hold MG_SYNC, but two wherever frames may overlap. -/

theorem bytesBehind_of_not_apart {s : State} (ha : ¬ framesApart s.params) : bytesBehind s = 2 := if_neg ha

theorem bytesBehind_eq_zero {s : State} (ha : framesApart s.params) (h : readRing s (s.rd - 1) ≠ s.params.mgSync) :
    bytesBehind s = 0 := by
  rw [bytesBehind, if_pos ha, if_pos h]

theorem bytesBehind_le_one {s : State} (ha : framesApart s.params) (h : readRing s (s.rd - 2) ≠ s.params.mgSync) :
    bytesBehind s ≤ 1 := by
  rw [bytesBehind, if_pos ha, if_pos h]
  split <;> decide

theorem bytesBehind_pos {s : State} (h : readRing s (s.rd - 1) = s.params.mgSync) : 1 ≤ bytesBehind s := by
  rw [bytesBehind, if_neg (not_not.mpr h)]
  split
  · split <;> decide
  · decide

theorem bytesBehind_skipByte (s : State) : bytesBehind (skipByte s) ≤ bytesBehind s + 1 := by
  have hle := bytesBehind_le (skipByte s)
  have hback : s.rd + 1 - 2 = s.rd - 1 := by bv_omega
  by_cases hsync : readRing s (s.rd - 1) = s.params.mgSync
  · have hpos := bytesBehind_pos hsync
    omega
  · by_cases ha : framesApart s.params
    · have hone : bytesBehind (skipByte s) ≤ 1 := bytesBehind_le_one ha (by rwa [skipByte_rd, hback])
      omega
    · have htwo := bytesBehind_of_not_apart ha
      omega

/-- A byte skipped takes one byte from those to come and may add one to those behind RD. -/
theorem frameBytes_skipByte {s : State} (hp : s.ptype = .unknown) (hr : s.rd ≠ s.wr) :
    frameBytes (skipByte s) ≤ frameBytes s := by
  have hu := unread_succ hr
  have hb := bytesBehind_skipByte s
  rw [frameBytes_of_unknown hp, frameBytes_of_unknown (s := skipByte s) hp, skipByte_wr, skipByte_rd]
  omega

/-- A Magellan match gives back the two MG_SYNC bytes that were counted as behind RD. -/
theorem bytesBehind_of_magellan {c : PacketClass} {s : State} (hc : c ≠ .trimble)
    (h : classify s.params (window s) = some c) : bytesBehind s = 2 := by
  have hsync : readRing s (s.rd - 1) = s.params.mgSync ∧ readRing s (s.rd - 2) = s.params.mgSync := by
    have hw := classify_eq_some h
    simp only [window_byte_one, window_byte_two] at hw
    cases c with
    | magTime => exact ⟨hw.2.1, hw.1⟩
    | magStatus => exact ⟨hw.2.1, hw.1⟩
    | trimble => exact absurd rfl hc
  simp only [bytesBehind, hsync, ne_eq, not_true_eq_false, if_false, ite_self]

theorem frameBytes_recognise {c : PacketClass} {s : State} (hp : s.ptype = .unknown)
    (h : classify s.params (window s) = some c) : frameBytes (recognise c s) ≤ frameBytes s := by
  have hu := unread_rewind s.wr s.rd c
  rw [frameBytes_of_unknown hp, recognise_eq]
  cases c with
  | magTime =>
    rw [bytesBehind_of_magellan (by decide) h]
    exact hu
  | magStatus =>
    rw [bytesBehind_of_magellan (by decide) h]
    exact hu
  | trimble =>
    have h0 : (0 : BitVec 5).toNat = 0 := rfl
    simp only [frameBytes, Bool.toNat_false]
    omega

/-- A move counts no byte twice: what it takes from the ring it stores or holds. -/
theorem frameBytes_afterMove {c : PacketClass} {s : State} (hp : s.ptype = .known c) (hn : s.plen.toNat < frameLen c)
    (hr : s.rd ≠ s.wr) : frameBytes (afterMove c s) ≤ frameBytes s := by
  have hu := unread_succ hr
  have hplen := afterMove_plen hn
  have hpt : (afterMove c s).ptype = .known c := hp
  have hwr : (afterMove c s).wr = s.wr := rfl
  have hrd : (afterMove c s).rd = if (decoderMove c s).consumes then s.rd + 1 else s.rd := rfl
  have hesc : (afterMove c s).esc = (decoderMove c s).holds := rfl
  unfold frameBytes
  rw [hpt, hp, hplen, hwr, hrd, hesc]
  cases c with
  | magTime => simp only [decoderMove, if_true, List.length_cons, List.length_nil]; omega
  | magStatus => simp only [decoderMove, if_true, List.length_cons, List.length_nil]; omega
  | trimble =>
    obtain ⟨he, -, e⟩ | ⟨he, -, e⟩ | ⟨he, -, e⟩ | ⟨he, -, -, e⟩ | ⟨he, -, -, e⟩ := decoderMove_trimble s <;>
      simp only [e, he, if_true, if_false, Bool.false_eq_true, List.length_cons, List.length_nil, Bool.toNat_true,
        Bool.toNat_false] <;> omega

/-- The last byte that a move stores is the byte it consumes, or a lone DLE. -/
theorem decoderMove_last {c : PacketClass} {s : State} (h : (decoderMove c s).stores ≠ []) :
    ∃ pre v, (decoderMove c s).stores = pre ++ [v] ∧
      ((decoderMove c s).consumes = true ∧ v = readRing s s.rd ∨ c = .trimble ∧ v = s.params.dle) := by
  cases c with
  | magTime => exact ⟨[], _, rfl, .inl ⟨rfl, rfl⟩⟩
  | magStatus => exact ⟨[], _, rfl, .inl ⟨rfl, rfl⟩⟩
  | trimble =>
    obtain ⟨-, -, e⟩ | ⟨-, -, e⟩ | ⟨-, -, e⟩ | ⟨-, -, -, e⟩ | ⟨-, -, -, e⟩ := decoderMove_trimble s <;> rw [e] at h ⊢
    · exact absurd rfl h
    · exact ⟨[], _, rfl, .inl ⟨rfl, rfl⟩⟩
    · exact ⟨[], _, rfl, .inr ⟨rfl, rfl⟩⟩
    · exact ⟨[], _, rfl, .inr ⟨rfl, rfl⟩⟩
    · exact ⟨[s.params.dle], _, rfl, .inl ⟨rfl, rfl⟩⟩

/-- The byte that fills a frame stands behind RD, or is a lone DLE. -/
theorem afterMove_last {c : PacketClass} {s : State} (hn : s.plen.toNat < frameLen c)
    (hfull : (afterMove c s).plen.toNat = frameLen c) :
    (afterMove c s).pkt.read (frameLen c - 1) = readRing (afterMove c s) ((afterMove c s).rd - 1) ∨
      c = .trimble ∧ (afterMove c s).pkt.read (frameLen c - 1) = s.params.dle := by
  rw [afterMove_plen hn] at hfull
  have hne : (decoderMove c s).stores ≠ [] := by
    rintro h0
    rw [h0, List.length_nil] at hfull
    omega
  obtain ⟨pre, v, hstores, hv⟩ := decoderMove_last hne
  have hread : (afterMove c s).pkt.read (frameLen c - 1) = v := by
    have hcell : frameLen c - 1 = s.plen.toNat + pre.length := by
      rw [hstores, List.length_append, List.length_singleton] at hfull
      omega
    rw [hcell]
    show (s.pkt.writeBytes s.plen.toNat (decoderMove c s).stores).read _ = v
    rw [hstores, Memory.read_writeBytes_last]
  rw [hread]
  refine hv.imp_left fun ⟨hcons, hb⟩ => ?_
  have hback : (afterMove c s).rd - 1 = s.rd := by
    have hrd : (afterMove c s).rd = s.rd + 1 := if_pos hcons
    rw [hrd, BitVec.add_sub_cancel]
  rw [hback, hb]
  rfl

/-- After a Timestamp accepted, the bytes behind RD and those of the next frame are no more than the frame just read counted
for. -/
theorem bytesBehind_of_terminator {c : PacketClass} {s : State} (hn : s.plen.toNat < frameLen c)
    (hfull : (afterMove c s).plen.toNat = frameLen c) (ht : endsInTerminator c (afterMove c s)) :
    bytesBehind (afterMove c s) + bytesPerFrame (afterMove c s).params ≤ 13 := by
  have hlast := afterMove_last hn hfull
  rw [bytesPerFrame]
  split
  next ha =>
    obtain ⟨hlf, hetx, hdle⟩ := ha
    rw [bytesBehind_eq_zero ⟨hlf, hetx, hdle⟩]
    obtain hlast | ⟨rfl, hlast⟩ := hlast
    · rw [← hlast]
      cases c with
      | trimble => exact fun h => hetx (ht.symm.trans h)
      | magTime => exact fun h => hlf (ht.symm.trans h)
      | magStatus => exact ht.elim
    · exact absurd (hlast.symm.trans ht) hdle
  next ha => rw [bytesBehind_of_not_apart ha]

/-! ## Timestamps still to come, along SCAN -/

/-- SCAN from a state with the invariant, a decoder step given as its move. -/
theorem exec_scan_cases {s t : State} (hl : s.lengthBelowFrame) (h : exec .scan s = .next t) :
    t = s ∨ (s.busy = true ∧ t = endPoll s) ∨ (synchronizing s ∧ t = skipByte s) ∨
    (∃ c, synchronizing s ∧ classify s.params (window s) = some c ∧ t = recognise c s) ∨
    ∃ c, decoding c s ∧ s.plen.toNat < frameLen c ∧
      (t = afterMove c s ∨ (afterMove c s).plen.toNat = frameLen c ∧ Finishes c (afterMove c s) t) := by
  obtain ⟨-, e⟩ | ⟨hb, -, e⟩ | ⟨hs, -, e⟩ | ⟨c, hs, hc, e⟩ | ⟨c, -, hd, -⟩ := execScan_next h
  · exact .inl e
  · exact .inr (.inl ⟨hb, e⟩)
  · exact .inr (.inr (.inl ⟨hs, e⟩))
  · exact .inr (.inr (.inr (.inl ⟨c, hs, hc, e⟩)))
  · have hn := lengthBelow_of_known hl hd.2.2
    refine .inr (.inr (.inr (.inr ⟨c, hd, hn, ?_⟩)))
    rw [exec_scan_decoding hd hn] at h
    cases h
    split
    next hfull => exact .inr ⟨hfull, finishes_finish c _⟩
    next => exact .inl rfl

/-- With the snapshot at WR, a packet's end leaves no more bytes to come than its frame counted for, and an accepted Timestamp
takes a whole frame from them. -/
theorem Finishes.frameBytes_le {c : PacketClass} {s t : State} (hd : decoding c s) (hn : s.plen.toNat < frameLen c)
    (hfull : (afterMove c s).plen.toNat = frameLen c) (h : Finishes c (afterMove c s) t) (hw : s.snap = s.wr) :
    frameBytes t + (if t.link = s.link then 0 else bytesPerFrame s.params) ≤ frameBytes s := by
  have hmove := frameBytes_afterMove hd.2.2 hn (hw ▸ hd.2.1)
  have hframe : (afterMove c s).ptype = .known c := hd.2.2
  have hfull13 := frameBytes_of_full hframe hfull
  have ht : frameBytes t = ((afterMove c s).wr - (afterMove c s).rd).toNat + bytesBehind (afterMove c s) := by
    rw [frameBytes_of_unknown (by rw [h.frame]), h.frame]
    rfl
  obtain hlink | ⟨hterm, -⟩ := h.link
  · have hlink' : t.link = s.link := hlink
    have hb := bytesBehind_le (afterMove c s)
    rw [if_pos hlink']
    omega
  · have hb : _ + bytesPerFrame s.params ≤ 13 := bytesBehind_of_terminator hn hfull hterm
    split <;> omega

/-- The Timestamps still to come are no more, as long as the bytes they need are no more. -/
theorem lateFrames_mono {s t : State} (hb : s.busy = true) (hw : t.wr = s.wr) (hs : t.snap = s.snap)
    (hP : t.params = s.params) (hl : t.lengthBelowFrame) (hf : s.snap = s.wr → frameBytes t ≤ frameBytes s) :
    lateFrames t ≤ lateFrames s := by
  by_cases hsnap : s.snap = s.wr
  · have hdiv := Nat.div_le_div_right (c := bytesPerFrame s.params) (hf hsnap)
    simpa only [lateFrames, hw, hs, hP, hsnap, ne_eq, not_true_eq_false, and_false, if_false] using hdiv
  · have hmax : lateFrames s = maxLateFrames s.params := if_pos ⟨hb, hsnap⟩
    rw [hmax, ← hP]
    exact lateFrames_le hl

/-- Between packets and poll calls there is room for one Timestamp more than can still come. -/
theorem lateFrames_idle_lt {t : State} (hb : t.busy = false) (hp : t.ptype = .unknown) :
    lateFrames t + 1 ≤ maxLateFrames t.params := by
  have hu := (t.wr - t.rd).isLt
  have hbehind := bytesBehind_le t
  rw [lateFrames, hb, if_neg (by simp), frameBytes_of_unknown hp, maxLateFrames, bytesPerFrame]
  split <;> omega

theorem bytesPerFrame_pos (P : Params) : 0 < bytesPerFrame P := by
  rw [bytesPerFrame]
  split <;> decide

/-- An accepted Timestamp is one less to come. -/
theorem lateFrames_succ_le {s t : State} (hb : s.busy = true) (hP : t.params = s.params) (hbt : t.busy = false)
    (hp : t.ptype = .unknown) (hf : s.snap = s.wr → frameBytes t + bytesPerFrame s.params ≤ frameBytes s) :
    lateFrames t + 1 ≤ lateFrames s := by
  by_cases hsnap : s.snap = s.wr
  · have hdiv := Nat.div_le_div_right (c := bytesPerFrame s.params) (hf hsnap)
    rw [Nat.add_div_right _ (bytesPerFrame_pos _)] at hdiv
    simpa only [lateFrames, hP, hbt, hsnap, ne_eq, not_true_eq_false, and_false, if_false, Bool.false_eq_true,
      false_and] using hdiv
  · have hmax : lateFrames s = maxLateFrames s.params := if_pos ⟨hb, hsnap⟩
    rw [hmax, ← hP]
    exact lateFrames_idle_lt hbt hp

/-- The ticks that may still be counted above SILENCE_LIMIT before the next byte: one if the link is up, and one for each
Timestamp to come. -/
def countableTicks (s : State) : Nat := (if s.link = .unavailable then 0 else 1) + lateFrames s

theorem ageWithin_iff (a : Nat) (s : State) :
    s.ageWithin a ↔ s.age.toNat ≤ s.params.silenceLimit ∨ s.age.toNat + countableTicks s ≤ s.params.silenceLimit + 1 + a := by
  rw [State.ageWithin, countableTicks, Nat.add_assoc]

theorem countableTicks_mono {s t : State} (hlink : t.link = s.link) (hl : lateFrames t ≤ lateFrames s) :
    countableTicks t ≤ countableTicks s := by
  rw [countableTicks, countableTicks, hlink]
  omega

theorem countableTicks_of_accepted {s t : State} (hl : lateFrames t + 1 ≤ lateFrames s) :
    countableTicks t ≤ countableTicks s := by
  rw [countableTicks, countableTicks]
  split_ifs <;> omega

/-- SCAN adds no tick to those that may still be counted. -/
theorem exec_scan_countableTicks {s t : State} (hi : s.Inv) (h : exec .scan s = .next t) :
    countableTicks t ≤ countableTicks s := by
  have hlt : t.lengthBelowFrame := ((State.inv_iff t).mp (exec_scan_inv hi h)).2.1.2.2
  obtain ⟨-, ⟨-, -, hl⟩, -⟩ := s.inv_iff.mp hi
  obtain rfl | ⟨hb, rfl⟩ | ⟨⟨hb, hr, hp⟩, rfl⟩ | ⟨c, ⟨hb, hr, hp⟩, hc, rfl⟩ | ⟨c, hd, hn, rfl | ⟨hfull, hf⟩⟩ :=
    exec_scan_cases hl h
  · exact le_refl _
  · rw [endPoll_eq] at hlt ⊢
    exact countableTicks_mono rfl (lateFrames_mono hb rfl rfl rfl hlt fun _ => le_refl _)
  · exact countableTicks_mono rfl (lateFrames_mono hb rfl rfl rfl hlt fun hw => frameBytes_skipByte hp (hw ▸ hr))
  · have hbytes := frameBytes_recognise hp hc
    rw [recognise_eq] at hlt hbytes ⊢
    exact countableTicks_mono rfl (lateFrames_mono hb rfl rfl rfl hlt fun _ => hbytes)
  · exact countableTicks_mono rfl
      (lateFrames_mono hd.1 rfl rfl rfl hlt fun hw => frameBytes_afterMove hd.2.2 hn (hw ▸ hd.2.1))
  · have hbytes := hf.frameBytes_le hd hn hfull
    by_cases hlink : t.link = s.link
    · rw [if_pos hlink] at hbytes
      exact countableTicks_mono hlink
        (lateFrames_mono hd.1 (by rw [hf.frame]; rfl) (by rw [hf.frame]; rfl) (by rw [hf.frame]; rfl) hlt hbytes)
    · rw [if_neg hlink] at hbytes
      exact countableTicks_of_accepted
        (lateFrames_succ_le hd.1 (by rw [hf.frame]; rfl) (by rw [hf.frame]) (by rw [hf.frame]) hbytes)

/-! ## AGE -/

/-- No operation but TICK that a step can perform raises AGE or the number of ticks that may still be counted. -/
theorem exec_age_le {i : Instr} {s t : State} (hev : eventOf i ≠ none) (htick : i ≠ .tick) (hi : s.Inv)
    (h : exec i s = .next t) : t.age = 0 ∨ t.age = s.age ∧ countableTicks t ≤ countableTicks s := by
  cases i with
  | scan => exact .inr ⟨by rw [exec_scan_pollingFrame h], exec_scan_countableTicks hi h⟩
  | poll =>
    obtain ⟨-, rfl⟩ | ⟨hb, rfl⟩ := exec_poll_next h
    · exact .inr ⟨rfl, le_refl _⟩
    · refine .inr ⟨rfl, countableTicks_mono rfl (le_of_eq ?_)⟩
      rw [lateFrames, lateFrames, hb, if_neg (by simp), if_neg (by simp)]
      rfl
  | cfg n => cases h; exact .inr ⟨rfl, le_refl _⟩
  | tick => exact absurd rfl htick
  | pps =>
    obtain rfl | ⟨-, rfl⟩ := exec_pps_next h
    · exact .inr ⟨rfl, le_refl _⟩
    · rw [countdownStep_eq]
      split <;> exact .inr ⟨rfl, le_refl _⟩
  | rxb b => cases h; exact .inl rfl
  | reserved6 => cases h; exact .inr ⟨rfl, le_refl _⟩
  | reset => cases h; exact .inl rfl
  | magTime w3 => exact absurd rfl hev
  | magStatus w3 => exact absurd rfl hev
  | trimble => exact absurd rfl hev

theorem age_succ_toNat {n : BitVec 16} (h : n.toNat < 65535) : (n + 1).toNat = n.toNat + 1 := by bv_omega

/-- A tick counted above the limit takes the link, so that the next one needs a Timestamp first. -/
theorem exec_tick_ageWithin {a : Nat} {s t : State} (ha : s.params.silenceLimit + 1 + a < 65536) (hw : s.ageWithin a)
    (h : exec .tick s = .next t)
    (hloss : s.age.toNat ≤ s.params.silenceLimit → t.age.toNat > s.params.silenceLimit → lateFrames s ≤ a) :
    t.ageWithin a := by
  obtain ⟨-, rfl⟩ | ⟨hlink, -, rfl⟩ | ⟨hlink, hsilent, rfl⟩ := exec_tick_next h
  · exact hw
  · have hlate : lateFrames { s with age := s.age + 1, link := .unavailable, trace := s.trace ++ [.linkLost] } =
      lateFrames s := rfl
    rw [State.ageWithin, if_neg hlink] at hw
    have hage : (s.age + 1).toNat = s.age.toNat + 1 := age_succ_toNat (by omega)
    rw [State.ageWithin, hlate, if_pos rfl]
    dsimp only at hloss ⊢
    rw [hage] at hloss ⊢
    omega
  · refine .inl ?_
    simpa only [silent, decide_eq_false_iff_not, gt_iff_lt, not_lt] using hsilent

/-- The bound on AGE is kept by every step, but for a tick that loses the link with too many Timestamps to come. -/
theorem step_ageWithin {a : Nat} {s t : State} (ha : s.params.silenceLimit + 1 + a < 65536) (hi : s.Inv)
    (hw : s.ageWithin a) (h : step s = .next t)
    (hloss : s.age.toNat ≤ s.params.silenceLimit → t.age.toNat > s.params.silenceLimit → lateFrames s ≤ a) :
    t.ageWithin a := by
  obtain rfl | ⟨i, rest, hev, h⟩ := step_next h
  · exact hw
  · by_cases htick : i = .tick
    · subst htick
      exact exec_tick_ageWithin (s := { s with input := rest }) ha hw h hloss
    · have hP : t.params = s.params := (exec_params_input h).1
      rw [ageWithin_iff] at hw ⊢
      rw [hP]
      obtain h0 | ⟨hage, hc⟩ := exec_age_le (s := { s with input := rest }) hev htick hi h
      · exact .inl (by rw [h0]; exact Nat.zero_le _)
      · have hc' : countableTicks t ≤ countableTicks s := hc
        rw [hage]
        exact hw.imp id fun hle => (Nat.add_le_add_left hc' _).trans hle

theorem maxLateFrames_le (P : Params) : maxLateFrames P ≤ 24 := by
  rw [maxLateFrames]
  split <;> decide

theorem step_ageBounded {s t : State} (hL : s.params.silenceLimit ≤ 65000) (hi : s.Inv) (hw : s.ageBounded)
    (h : step s = .next t) : t.ageBounded := by
  have hmax := maxLateFrames_le s.params
  have hP : t.params = s.params := by
    obtain rfl | ⟨i, rest, -, h⟩ := step_next h
    · rfl
    · exact (exec_params_input h).1
  obtain ⟨-, ⟨-, -, hl⟩, -⟩ := s.inv_iff.mp hi
  rw [State.ageBounded, hP]
  exact step_ageWithin (by omega) hi hw h fun _ _ => lateFrames_le hl

theorem age_le_of_ageWithin {a : Nat} {s : State} (h : s.ageWithin a) : s.age.toNat ≤ s.params.silenceLimit + 1 + a := by
  rw [ageWithin_iff] at h
  omega

/-- Where frames do not overlap, 20 Timestamps to come need 260 bytes, some of them in a packet in progress. -/
theorem lateFrames_le_or_full {s : State} (ha : framesApart s.params) (hs : s.busy = false ∨ s.snap = s.wr) :
    lateFrames s ≤ 19 ∨ s.ptype ≠ .unknown ∧ 260 ≤ frameBytes s := by
  have hlate : lateFrames s = frameBytes s / 13 := by
    rw [lateFrames, bytesPerFrame, if_pos ha]
    refine if_neg fun ⟨hb, hsnap⟩ => ?_
    obtain hb' | hs' := hs
    · rw [hb] at hb'; cases hb'
    · exact hsnap hs'
  by_cases hf : 260 ≤ frameBytes s
  · refine .inr ⟨fun hp => ?_, hf⟩
    have hu := (s.wr - s.rd).isLt
    have hb := bytesBehind_le s
    rw [frameBytes_of_unknown hp] at hf
    omega
  · exact .inl (by omega)

/-- Settles O60: the ticks that may still be counted never grow but by a new byte, which sets AGE to 0. -/
theorem ageStaysWithinTheRing : Obligations.AgeStaysWithinTheRing :=
  ⟨.inl (Nat.zero_le _), fun _ _ hL hi hw h => step_ageBounded hL hi hw h, fun _ h => age_le_of_ageWithin h, by decide,
    .inl (Nat.zero_le _), fun _ _ _ ha hi hw h hloss => step_ageWithin ha hi hw h hloss,
    fun _ h => age_le_of_ageWithin h, fun _ ha hs => lateFrames_le_or_full ha hs⟩

end Sys2Proof.Machine
end

section
/-! PROOFS. A step performs the word presented next, and any number of bytes arrives without a fault, a flag or an event
(70_reset_and_hazards R225, 20_memory R55, 40_ring_buffer R90, R97 (a)). -/

namespace Sys2Proof.Machine

/-- Settles O7: the decoder is total on event words, and fetching one takes it from the input. -/
theorem stepPerformsThePresentedOperation : Obligations.StepPerformsThePresentedOperation := by
  intro s w rest i hin hdec _
  have hi : decodeEvent w = i := Except.ok.inj hdec
  rw [step, fetchEvent, hin, ← hi]

/-! ## Bytes stored one after another -/

theorem writeRingFrom_append (xs ys : List Byte) (i : Byte) (s : State) :
    writeRingFrom i (xs ++ ys) s = writeRingFrom (i + BitVec.ofNat 8 xs.length) ys (writeRingFrom i xs s) := by
  induction xs generalizing i s with
  | nil => simp [writeRingFrom]
  | cons b rest ih =>
    have hlen : i + BitVec.ofNat 8 (b :: rest).length = i + 1 + BitVec.ofNat 8 rest.length := by
      rw [List.length_cons]; bv_omega
    rw [hlen]
    exact ih (i + 1) (writeRing i b s)

/-- Stores leave alone every cell that none of them names. -/
theorem read_writeRingFrom_of_ne {a : Nat} (bytes : List Byte) (i : Byte) (s : State)
    (h : ∀ k, k < bytes.length → a ≠ (i.toNat + k) % 256) : (writeRingFrom i bytes s).buf.read a = s.buf.read a := by
  induction bytes generalizing i s with
  | nil => rfl
  | cons b rest ih =>
    have hrest : ∀ k, k < rest.length → a ≠ ((i + 1).toNat + k) % 256 := fun k hk => by
      have hk' := h (k + 1) (Nat.succ_lt_succ hk)
      bv_omega
    have hhead : a ≠ i.toNat := by
      have h0 := h 0 (Nat.succ_pos _)
      bv_omega
    exact (ih (i + 1) (writeRing i b s) hrest).trans (Memory.read_write_of_ne _ _ hhead)

/-- A cell holds the newest byte stored there: the one after which fewer than 256 come. -/
theorem read_writeRingFrom_newest (bytes : List Byte) (i : Byte) (s : State) {k : Nat} (hk : k < bytes.length)
    (hnew : bytes.length ≤ k + 256) : (writeRingFrom i bytes s).buf.read ((i.toNat + k) % 256) = bytes[k] := by
  have hsplit : bytes = bytes.take k ++ bytes[k] :: bytes.drop (k + 1) := by
    rw [← List.drop_eq_getElem_cons hk, List.take_append_drop]
  have hpos : (i + BitVec.ofNat 8 k).toNat = (i.toNat + k) % 256 := by bv_omega
  have hlater : ∀ j, j < (bytes.drop (k + 1)).length →
      (i.toNat + k) % 256 ≠ ((i + BitVec.ofNat 8 k + 1).toNat + j) % 256 := by
    intro j hj
    rw [List.length_drop] at hj
    bv_omega
  conv_lhs => rw [hsplit]
  rw [writeRingFrom_append, List.length_take_of_le hk.le, writeRingFrom, read_writeRingFrom_of_ne _ _ _ hlater,
    writeRing_buf, hpos, Memory.read_write_self]

/-! ## Bytes received one after another -/

/-- The state after RXB. -/
def receive (b : Byte) (s : State) : State := rxLink { writeRing s.wr b s with wr := s.wr + 1 }

/-- The state after a batch of bytes. -/
def receiveAll (bytes : List Byte) (s : State) : State :=
  match bytes with
  | [] => s
  | b :: rest => receiveAll rest (receive b s)

theorem exec_rxb (b : Byte) (s : State) : exec (.rxb b) s = .next (receive b s) := rfl

theorem runOps_rxb (bytes : List Byte) (s : State) : runOps (bytes.map .rxb) s = .next (receiveAll bytes s) := by
  induction bytes generalizing s with
  | nil => rfl
  | cons b rest ih => exact ih (receive b s)

/-- What stores put in the ring does not depend on the rest of the state. -/
theorem writeRingFrom_congr (bytes : List Byte) (i : Byte) {s t : State} (h : t.buf = s.buf) :
    (writeRingFrom i bytes t).buf = (writeRingFrom i bytes s).buf := by
  induction bytes generalizing i s t with
  | nil => exact h
  | cons b rest ih => exact ih (i + 1) (by rw [writeRing_buf, writeRing_buf, h])

theorem rxLink_rxLink (s : State) : rxLink (rxLink s) = rxLink s := by
  by_cases h : s.link = .unavailable <;> simp [rxLink, h]

/-- A batch that is not empty, as one update. -/
theorem receiveAll_cons (b : Byte) (rest : List Byte) (s : State) :
    receiveAll (b :: rest) s =
      { rxLink s with
        buf := (writeRingFrom s.wr (b :: rest) s).buf, wr := s.wr + BitVec.ofNat 8 (b :: rest).length } := by
  induction rest generalizing b s with
  | nil => rfl
  | cons b' rest ih =>
    have hbuf : (writeRingFrom (s.wr + 1) (b' :: rest) (receive b s)).buf = (writeRingFrom s.wr (b :: b' :: rest) s).buf :=
      writeRingFrom_congr (s := writeRing s.wr b s) _ _ rfl
    have hwr : (receive b s).wr + BitVec.ofNat 8 (b' :: rest).length = s.wr + BitVec.ofNat 8 (b :: b' :: rest).length := by
      show s.wr + 1 + _ = _
      rw [List.length_cons (as := b' :: rest)]
      bv_omega
    have hlink : rxLink (receive b s) = receive b s := rxLink_rxLink _
    rw [receiveAll, ih b' (receive b s), hwr, hlink, ← hbuf]
    rfl

/-- What a batch leaves: the ring, WR, AGE and LINK moved, nothing else. -/
theorem receiveAll_frame (bytes : List Byte) (s : State) :
    (receiveAll bytes s).buf = (writeRingFrom s.wr bytes s).buf ∧
    (receiveAll bytes s).wr = s.wr + BitVec.ofNat 8 bytes.length ∧
    receiveAll bytes s = { s with buf := (receiveAll bytes s).buf, wr := (receiveAll bytes s).wr,
                                  age := (receiveAll bytes s).age, link := (receiveAll bytes s).link } := by
  cases bytes with
  | nil => exact ⟨rfl, (BitVec.add_zero _).symm, rfl⟩
  | cons b rest => rw [receiveAll_cons]; exact ⟨rfl, rfl, rfl⟩

/-- Settles O17: a batch moves nothing but WR and what every byte moves, and each cell keeps its newest byte. -/
theorem overrunIsSilent : Obligations.OverrunIsSilent := by
  intro bytes s
  obtain ⟨hbuf, hwr, hframe⟩ := receiveAll_frame bytes s
  refine ⟨receiveAll bytes s, runOps_rxb bytes s, ?_, fun k hk hnew => ?_, fun a ha => ?_, hframe⟩
  · have hrd : (receiveAll bytes s).rd = s.rd := by rw [hframe]
    rw [hwr, hrd]
    bv_omega
  · rw [hbuf]
    exact read_writeRingFrom_newest bytes s.wr s hk hnew
  · rw [hbuf]
    exact read_writeRingFrom_of_ne bytes s.wr s ha

end Sys2Proof.Machine
end

section
/-! PROOFS. What SCAN reads of the ring (20_memory R50, 40_ring_buffer R98, 41_synchronizer R101): with other ring contents,
cursors and AGE it does the same, as long as the byte under RD, the synchronizer's window and the test RD = SNAP are the
same. -/

namespace Sys2Proof.Machine

/-- A change of the ring memory, the write cursor, the snapshot and AGE. -/
structure RingMap where
  buf : Memory → Memory
  wr : Byte → Byte
  snap : Byte → Byte
  age : BitVec 16 → BitVec 16

/-- The state so changed. -/
def RingMap.apply (f : RingMap) (s : State) : State :=
  { s with buf := f.buf s.buf, wr := f.wr s.wr, snap := f.snap s.snap, age := f.age s.age }

section
variable {f : RingMap}

/-! ## What does not look at the ring -/

theorem endPoll_ringMap (s : State) : endPoll (f.apply s) = f.apply (endPoll s) := by
  rw [endPoll_eq, endPoll_eq]; rfl

theorem recognise_ringMap (c : PacketClass) (s : State) :
    recognise c (f.apply s) = f.apply (recognise c s) := by
  rw [recognise_eq, recognise_eq]; rfl

theorem countdownStep_ringMap (s : State) :
    countdownStep (f.apply s) = f.apply (countdownStep s) := by
  rw [countdownStep_eq, countdownStep_eq, apply_ite f.apply]; rfl

theorem cdOnTs_ringMap (ts : Timestamp) (s : State) :
    cdOnTs ts (f.apply s) = f.apply (cdOnTs ts s) := by
  have hcd : (f.apply s).cd = s.cd := rfl
  have hex : (f.apply s).explen = s.explen := rfl
  unfold cdOnTs
  rw [hcd, hex]
  split
  · cases s.cd with
    | triggered => rfl
    | enabled => exact countdownStep_ringMap (emit .dbgMissedPulse s)
    | syncing => dsimp only; rw [apply_ite f.apply]; rfl
  · rfl

theorem latchSync_ringMap (s : State) : latchSync (f.apply s) = f.apply (latchSync s) := by
  rw [latchSync_eq, latchSync_eq, apply_ite f.apply]; rfl

theorem acceptTs_ringMap (ts : Timestamp) (s : State) :
    acceptTs ts (f.apply s) = f.apply (acceptTs ts s) := by
  have h : latchSync (cdOnTs ts (f.apply { s with curTs := ts, link := .active })) =
      f.apply (latchSync (cdOnTs ts { s with curTs := ts, link := .active })) := by
    rw [cdOnTs_ringMap, latchSync_ringMap]
  exact congrArg (fun u : State => { u with updated := true }) h

theorem tbFinish_ringMap (s : State) : tbFinish (f.apply s) = f.apply (tbFinish s) := by
  have ht : trimbleTerminated (f.apply s) = trimbleTerminated s := rfl
  have hts : trimbleTimestamp (f.apply s) = trimbleTimestamp s := rfl
  unfold tbFinish
  rw [ht, hts, acceptTs_ringMap]
  split
  · exact endPoll_ringMap (pktReset (acceptTs _ s))
  · exact endPoll_ringMap (pktReset (emit _ s))

theorem mgTimeAccept_ringMap (s : State) :
    mgTimeAccept (f.apply s) = f.apply (mgTimeAccept s) := by
  have hts : magellanTimestamp (f.apply s) = magellanTimestamp s := rfl
  unfold mgTimeAccept
  rw [hts]
  cases magellanTimestamp s with
  | none => rfl
  | some ts => exact acceptTs_ringMap ts s

theorem mgStatusAccept_ringMap (s : State) :
    mgStatusAccept (f.apply s) = f.apply (mgStatusAccept s) := by
  unfold mgStatusAccept
  dsimp only
  rw [apply_ite f.apply]
  rfl

theorem mgFinish_ringMap (c : PacketClass) (s : State) :
    mgFinish c (f.apply s) = f.apply (mgFinish c s) := by
  have hpkt : (f.apply s).pkt = s.pkt := rfl
  have hP : (f.apply s).params = s.params := rfl
  have hsum : checksum (f.apply s) (frameLen c) = checksum s (frameLen c) := rfl
  unfold mgFinish
  dsimp only
  rw [hpkt, hP, hsum, mgStatusAccept_ringMap, mgTimeAccept_ringMap]
  split
  · exact endPoll_ringMap (pktReset (emit _ s))
  · split
    · exact endPoll_ringMap (pktReset (emit _ s))
    · split
      · exact endPoll_ringMap (pktReset (mgStatusAccept s))
      · exact endPoll_ringMap (pktReset (mgTimeAccept s))

theorem storePkt_ringMap (v : Byte) (s : State) :
    storePkt v (f.apply s) = (storePkt v s).map f.apply := by
  unfold storePkt
  rw [apply_ite (Option.map f.apply)]
  rfl

theorem storeTb_ringMap (v : Byte) (s : State) :
    storeTb v (f.apply s) = (storeTb v s).map fun p => (f.apply p.1, p.2) := by
  unfold storeTb
  rw [storePkt_ringMap]
  cases storePkt v s with
  | none => rfl
  | some t =>
    dsimp only [Option.map_some]
    rw [tbFinish_ringMap, apply_ite (Option.map fun p : State × Bool => (f.apply p.1, p.2))]
    rfl

theorem storeResult_ringMap (r : Option (State × Bool)) :
    storeResult (r.map fun p => (f.apply p.1, p.2)) = mapNext f.apply (storeResult r) := by
  cases r <;> rfl

/-! ## What looks at the byte under RD -/

theorem trimbleStep_ringMap {s : State} (h : (f.buf s.buf).read s.rd.toNat = s.buf.read s.rd.toNat) :
    trimbleStep (f.apply s) = mapNext f.apply (trimbleStep s) := by
  have hb : readRing (f.apply s) (f.apply s).rd = readRing s s.rd := h
  have hesc : (f.apply s).esc = s.esc := rfl
  have hP : (f.apply s).params = s.params := rfl
  have store : ∀ (v : Byte) (t : State), storeResult (storeTb v (f.apply t)) =
      mapNext f.apply (storeResult (storeTb v t)) := fun v t => by
    rw [storeTb_ringMap, storeResult_ringMap]
  unfold trimbleStep
  dsimp only
  rw [hb, hesc, hP]
  split
  · split
    · exact store _ (advanceRd { s with esc := false })
    · have hheld := storeTb_ringMap (f := f) s.params.dle { s with esc := false }
      simp only [RingMap.apply] at hheld ⊢
      rw [hheld]
      match storeTb s.params.dle { s with esc := false } with
      | none => rfl
      | some (t, true) => rfl
      | some (t, false) => exact store _ (advanceRd t)
  · split
    · rfl
    · exact store _ (advanceRd s)

theorem magellanStep_ringMap (c : PacketClass) {s : State} (h : (f.buf s.buf).read s.rd.toNat = s.buf.read s.rd.toNat) :
    magellanStep c (f.apply s) = mapNext f.apply (magellanStep c s) := by
  have hb : readRing (f.apply s) (f.apply s).rd = readRing s s.rd := h
  have hadv : advanceRd (f.apply s) = f.apply (advanceRd s) := rfl
  unfold magellanStep
  rw [hb, hadv, storePkt_ringMap]
  cases storePkt (readRing s s.rd) (advanceRd s) with
  | none => rfl
  | some t =>
    dsimp only [Option.map_some]
    rw [mgFinish_ringMap, mapNext, apply_ite f.apply]
    rfl

theorem syncStep_ringMap {s : State}
    (h : classify s.params (window { s with buf := f.buf s.buf }) = classify s.params (window s)) :
    syncStep (f.apply s) = f.apply (syncStep s) := by
  have hw : classify (f.apply s).params (window (f.apply s)) =
      classify s.params (window s) := h
  unfold syncStep
  rw [hw]
  cases classify s.params (window s) with
  | none => rfl
  | some c => exact recognise_ringMap c s

/-! ## SCAN -/

/-- What SCAN reads of the ring is the same after the change. -/
structure SameView (f : RingMap) (s : State) : Prop where
  ends : s.rd = f.snap s.snap ↔ s.rd = s.snap
  byte : s.ptype ≠ .unknown → (f.buf s.buf).read s.rd.toNat = s.buf.read s.rd.toNat
  signature : s.ptype = .unknown →
    classify s.params (window { s with buf := f.buf s.buf }) = classify s.params (window s)

theorem exec_scan_ringMap {s : State} (h : SameView f s) :
    exec .scan (f.apply s) = mapNext f.apply (exec .scan s) := by
  cases hb : s.busy with
  | false => rw [exec_scan_of_idle hb]; exact exec_scan_of_idle hb
  | true =>
    by_cases hr : s.rd = s.snap
    · rw [exec_scan_of_drained hb hr, mapNext, ← endPoll_ringMap]
      exact exec_scan_of_drained (s := f.apply s) hb (h.ends.mpr hr)
    · have hr' : s.rd ≠ f.snap s.snap := fun e => hr (h.ends.mp e)
      cases hp : s.ptype with
      | unknown =>
        rw [execScan_of_synchronizing ⟨hb, hr, hp⟩, mapNext, ← syncStep_ringMap (h.signature hp)]
        exact execScan_of_synchronizing (s := f.apply s) ⟨hb, hr', hp⟩
      | known c =>
        have hbyte := h.byte (by rw [hp]; exact PType.noConfusion)
        rw [execScan_of_decoding ⟨hb, hr, hp⟩, execScan_of_decoding (s := f.apply s) ⟨hb, hr', hp⟩]
        cases c with
        | trimble => exact trimbleStep_ringMap hbyte
        | magTime => exact magellanStep_ringMap .magTime hbyte
        | magStatus => exact magellanStep_ringMap .magStatus hbyte

end

/-- Settles O25. -/
theorem scanNeverReadsTheWriteCursor : Obligations.ScanNeverReadsTheWriteCursor := fun s wr age =>
  exec_scan_ringMap (f := ⟨id, fun _ => wr, id, fun _ => age⟩) (s := s) ⟨Iff.rfl, fun _ => rfl, fun _ => rfl⟩

/-- Settles O26: either snapshot lies away from RD, so the test RD = SNAP fails for both. -/
theorem scanReadsTheSnapshotOnlyAsEnd : Obligations.ScanReadsTheSnapshotOnlyAsEnd := fun s snap hs hsnap =>
  exec_scan_ringMap (f := ⟨id, id, fun _ => snap, id⟩) (s := s)
    ⟨iff_of_false hsnap hs, fun _ => rfl, fun _ => rfl⟩

end Sys2Proof.Machine
end

section
/-! PROOFS. A poll call as a sequence of reads: each SCAN away from the snapshot is a poll call of its own, because END_POLL
reports nothing before a packet has ended (40_ring_buffer R92 to R95, R99). -/

namespace Sys2Proof.Machine

open Relation (ReflTransGen)

/-! ## One read -/

/-- A poll call just begun. -/
def polled (s : State) : State := { s with snap := s.wr, busy := true, updated := false }

/-- The block idle, with nothing left of the last poll call but what it did. -/
def quiet (s : State) : State := { s with snap := s.wr, busy := false, updated := false }

@[simp] theorem quiet_ptype (s : State) : (quiet s).ptype = s.ptype := rfl
@[simp] theorem quiet_rd (s : State) : (quiet s).rd = s.rd := rfl
@[simp] theorem quiet_wr (s : State) : (quiet s).wr = s.wr := rfl

/-- The invariant does not look at the poll call. -/
theorem quiet_inv {s : State} : (quiet s).Inv ↔ s.Inv := Iff.rfl

theorem polled_inv {s : State} : (polled s).Inv ↔ s.Inv := Iff.rfl

/-- One byte read: the first SCAN of a poll call, and the call left at that. -/
def Reads (x y : State) : Prop := x.rd ≠ x.wr ∧ ∃ t, exec .scan (polled x) = .next t ∧ y = quiet t

/-- Any number of bytes read. -/
abbrev ReadsMany : State → State → Prop := ReflTransGen Reads

/-- Bytes read until none is left. -/
structure Drains (x z : State) : Prop where
  reads : ReadsMany x z
  drained : z.rd = z.wr
  quiet : z = quiet z

theorem reads_rightUnique : Relator.RightUnique Reads := by
  rintro x y z ⟨-, t, ht, rfl⟩ ⟨-, u, hu, rfl⟩
  rw [ht] at hu
  cases hu
  rfl

theorem not_reads_of_drained {x y : State} (h : x.rd = x.wr) : ¬ Reads x y := fun hr => hr.1 h

theorem readsMany_of_drained {x y : State} (h : x.rd = x.wr) (hr : ReadsMany x y) : y = x := by
  obtain rfl | ⟨z, hz, -⟩ := hr.cases_head
  · rfl
  · exact absurd hz (not_reads_of_drained h)

/-- Whatever has been read on the way, the end is the same. -/
theorem ReadsMany.drains {x y z : State} (hy : ReadsMany x y) (hz : Drains x z) : Drains y z := by
  obtain h | h := ReflTransGen.total_of_right_unique reads_rightUnique hy hz.reads
  · exact ⟨h, hz.drained, hz.quiet⟩
  · rw [readsMany_of_drained hz.drained h]
    exact ⟨.refl, hz.drained, hz.quiet⟩

theorem Drains.unique {x y z : State} (hy : Drains x y) (hz : Drains x z) : y = z :=
  (readsMany_of_drained hy.drained (hy.reads.drains hz).reads).symm

/-- All that the first SCAN of a poll call can do to a byte. -/
inductive FirstScan (x : State) : State → Prop
  | skipped : x.ptype = .unknown → classify x.params (window x) = none → FirstScan x (polled (skipByte x))
  | matched (c : PacketClass) : x.ptype = .unknown → classify x.params (window x) = some c →
      FirstScan x (polled (recognise c x))
  | stored (c : PacketClass) : x.ptype = .known c → x.plen.toNat < frameLen c →
      (afterMove c x).plen.toNat < frameLen c → FirstScan x (polled (afterMove c x))
  | ended (c : PacketClass) (t : State) : x.ptype = .known c → x.plen.toNat < frameLen c →
      (afterMove c x).plen.toNat = frameLen c → Finishes c (polled (afterMove c x)) t → FirstScan x t

theorem exec_scan_polled {x : State} (hl : x.lengthBelowFrame) (hr : x.rd ≠ x.wr) :
    ∃ t, exec .scan (polled x) = .next t ∧ FirstScan x t := by
  cases hp : x.ptype with
  | unknown =>
    rw [execScan_of_synchronizing (s := polled x) ⟨rfl, hr, hp⟩]
    refine ⟨_, rfl, ?_⟩
    have hw : classify (polled x).params (window (polled x)) = classify x.params (window x) := rfl
    rw [syncStep, hw]
    cases hc : classify x.params (window x) with
    | none => exact .skipped hp hc
    | some c =>
      have hrec : recognise c (polled x) = polled (recognise c x) := by rw [recognise_eq, recognise_eq]; rfl
      dsimp only
      rw [hrec]
      exact .matched c hp hc
  | known c =>
    have hn : x.plen.toNat < frameLen c := lengthBelow_of_known hl hp
    rw [exec_scan_decoding (s := polled x) ⟨rfl, hr, hp⟩ hn]
    refine ⟨_, rfl, ?_⟩
    split
    next hfull => exact .ended c _ hp hn hfull (finishes_finish c _)
    next hfull =>
      have hle : (afterMove c x).plen.toNat ≤ frameLen c := by
        rw [afterMove_plen hn]; exact decoderMove_stores_le hn
      exact .stored c hp hn (lt_of_le_of_ne hle hfull)

theorem Reads.firstScan {x y : State} (hl : x.lengthBelowFrame) (h : Reads x y) : ∃ t, FirstScan x t ∧ y = quiet t := by
  obtain ⟨hr, t, ht, hy⟩ := h
  obtain ⟨t', ht', hf⟩ := exec_scan_polled hl hr
  rw [ht] at ht'
  cases ht'
  exact ⟨t, hf, hy⟩

/-! ## What reading keeps -/

theorem State.Inv.lengthBelow {s : State} (h : s.Inv) : s.lengthBelowFrame := ((State.inv_iff s).mp h).2.1.2.2

/-- What reading leaves alone. -/
structure SameRing (x y : State) : Prop where
  buf : y.buf = x.buf
  wr : y.wr = x.wr
  params : y.params = x.params
  age : y.age = x.age

theorem Reads.sameRing {x y : State} (h : Reads x y) : SameRing x y := by
  obtain ⟨-, t, ht, rfl⟩ := h
  have hf : PollingFrame (polled x) t := exec_scan_pollingFrame ht
  rw [hf]
  exact ⟨rfl, rfl, rfl, rfl⟩

theorem SameRing.trans {x y z : State} (hxy : SameRing x y) (hyz : SameRing y z) : SameRing x z :=
  ⟨hyz.buf.trans hxy.buf, hyz.wr.trans hxy.wr, hyz.params.trans hxy.params, hyz.age.trans hxy.age⟩

/-- Induction along reads, once for all. -/
theorem ReadsMany.induct {p : State → Prop} (step : ∀ {x y}, p x → Reads x y → p y) {x y : State} (h : ReadsMany x y)
    (hx : p x) : p y := by
  induction h with
  | refl => exact hx
  | tail _ hr ih => exact step ih hr

theorem ReadsMany.sameRing {x y : State} (h : ReadsMany x y) : SameRing x y :=
  h.induct (p := SameRing x)
    (fun hxy hr => hxy.trans hr.sameRing) ⟨rfl, rfl, rfl, rfl⟩

theorem Reads.inv {x y : State} (hx : x.Inv) (h : Reads x y) : y.Inv := by
  obtain ⟨-, t, ht, rfl⟩ := h
  exact quiet_inv.mpr (exec_scan_inv (polled_inv.mpr hx) ht)

theorem ReadsMany.inv {x y : State} (h : ReadsMany x y) (hx : x.Inv) : y.Inv := h.induct Reads.inv hx

/-- SCAN never takes the link away. -/
theorem exec_scan_linked {s t : State} (h : exec .scan s = .next t) (hs : s.link ≠ .unavailable) :
    t.link ≠ .unavailable := by
  obtain rfl | rfl | rfl | ⟨c, -, rfl⟩ | ⟨c, rd, pkt, plen, esc, -, -, -, ⟨-, rfl⟩ | hf⟩ := exec_scan_next h
  · exact hs
  · rwa [endPoll_link]
  · exact hs
  · rwa [recognise_eq]
  · exact hs
  · obtain hl | ⟨-, hl⟩ := hf.link
    · rwa [hl]
    · rw [hl]; exact Link.noConfusion

theorem Reads.linked {x y : State} (hx : x.link ≠ .unavailable) (h : Reads x y) : y.link ≠ .unavailable := by
  obtain ⟨-, t, ht, rfl⟩ := h
  have ht' : t.link ≠ .unavailable := exec_scan_linked (s := polled x) ht hx
  exact ht'

theorem ReadsMany.linked {x y : State} (h : ReadsMany x y) (hx : x.link ≠ .unavailable) : y.link ≠ .unavailable :=
  h.induct (p := fun s => s.link ≠ .unavailable) Reads.linked hx

/-! ## How many poll calls a drain takes -/

/-- The bytes to come that packets may still end on; every packet that ends takes 11 of them. -/
def endingBytes (s : State) : Nat :=
  match s.ptype with
  | .unknown => (s.wr - s.rd).toNat + 2
  | .known _ => frameBytes s

theorem endingBytes_of_unknown {s : State} (h : s.ptype = .unknown) : endingBytes s = (s.wr - s.rd).toNat + 2 := by
  rw [endingBytes, h]

theorem endingBytes_of_known {s : State} {c : PacketClass} (h : s.ptype = .known c) : endingBytes s = frameBytes s := by
  rw [endingBytes, h]

theorem endingBytes_polled (s : State) : endingBytes (polled s) = endingBytes s := rfl

theorem endingBytes_quiet (s : State) : endingBytes (quiet s) = endingBytes s := rfl

theorem afterMove_ptype (c : PacketClass) (s : State) : (afterMove c s).ptype = s.ptype := rfl

theorem frameBytes_recognise_le (c : PacketClass) (s : State) :
    frameBytes (recognise c s) ≤ (s.wr - (s.rd - rewind c)).toNat := by
  rw [recognise_eq]
  have h0 : (0 : BitVec 5).toNat = 0 := rfl
  cases c <;> simp only [frameBytes, Bool.toNat_false, h0] <;> omega

/-- A packet's end takes 11 bytes at least. -/
theorem Finishes.endingBytes_le {c : PacketClass} {s t : State} (hp : s.ptype = .known c)
    (hfull : s.plen.toNat = frameLen c) (h : Finishes c s t) : endingBytes t + 11 ≤ endingBytes s := by
  have hb := frameBytes_of_full hp hfull
  have ht : endingBytes t = (s.wr - s.rd).toNat + 2 := by
    rw [h.frame]
    exact endingBytes_of_unknown rfl
  rw [ht, endingBytes_of_known hp]
  omega

/-- More SCANs than a poll call takes to drain or to end a packet: one match gives back two bytes (40_ring_buffer R99). -/
def scansLeft (s : State) : Nat := (s.wr - s.rd).toNat + if s.ptype = .unknown then 3 else 0

theorem scansLeft_lt (s : State) : scansLeft s < pollCallBound := by
  have hu := (s.wr - s.rd).isLt
  rw [scansLeft, pollCallBound]
  split <;> omega

/-- What a poll call does, from `x` to `h`: it reads until it has drained the ring or a packet has ended. -/
structure PollCall (x h : State) : Prop where
  idle : h.busy = false
  reads : ReadsMany (quiet x) (quiet h)
  ends : h = quiet h ∧ h.rd = h.wr ∨ x.rd ≠ x.wr ∧ h.ptype = .unknown ∧ endingBytes h + 11 ≤ endingBytes x

theorem scanWhileBusy_of_idle {s : State} (h : s.busy = false) (fuel : Nat) : scanWhileBusy fuel s = .next s := by
  cases fuel with
  | zero => rfl
  | succ fuel => simp [scanWhileBusy, h]

theorem scanWhileBusy_succ {s t : State} (fuel : Nat) (hb : s.busy = true) (h : exec .scan s = .next t) :
    scanWhileBusy (fuel + 1) s = scanWhileBusy fuel t := by
  simp [scanWhileBusy, hb, h]

/-- A move that leaves a byte under RD fills the frame with a lone DLE (42_trimble_decoder R116). -/
theorem decoderMove_consumes {c : PacketClass} {s : State} (hn : s.plen.toNat < frameLen c)
    (h : (decoderMove c s).consumes = false) :
    c = .trimble ∧ s.esc = true ∧ s.plen.toNat = 20 ∧ s.buf.read s.rd.toNat ≠ s.params.dle ∧
      (afterMove c s).plen.toNat = frameLen c := by
  rw [afterMove_plen hn]
  cases c with
  | magTime => cases h
  | magStatus => cases h
  | trimble =>
    obtain ⟨-, -, e⟩ | ⟨-, -, e⟩ | ⟨-, -, e⟩ | ⟨he, hb, h20, e⟩ | ⟨-, -, -, e⟩ := decoderMove_trimble s <;> rw [e] at h ⊢
    · cases h
    · cases h
    · cases h
    · exact ⟨rfl, he, h20, hb, by rw [h20]; rfl⟩
    · cases h

theorem afterMove_rd {c : PacketClass} {s : State} (h : (decoderMove c s).consumes = true) :
    (afterMove c s).rd = s.rd + 1 := if_pos h

theorem afterMove_rd_of_room {c : PacketClass} {s : State} (hn : s.plen.toNat < frameLen c)
    (hlt : (afterMove c s).plen.toNat < frameLen c) : (afterMove c s).rd = s.rd + 1 := by
  refine afterMove_rd (Bool.not_eq_false _ ▸ fun h => ?_)
  obtain ⟨-, -, -, -, hfull⟩ := decoderMove_consumes hn h
  omega

/-- A SCAN either goes on with the poll call, with fewer to come, or ends a packet and with it the call. -/
theorem FirstScan.goes_on {x t : State} (h : FirstScan x t) (hr : x.rd ≠ x.wr) :
    t = polled t ∧ scansLeft t < scansLeft x ∨
      t.busy = false ∧ t.ptype = .unknown ∧ endingBytes t + 11 ≤ endingBytes x := by
  have hu := unread_succ hr
  cases h with
  | skipped hp hc =>
    refine .inl ⟨rfl, ?_⟩
    show ((x.wr - (x.rd + 1)).toNat + if x.ptype = .unknown then 3 else 0) < _
    rw [scansLeft]
    omega
  | matched c hp hc =>
    have hrew := unread_rewind x.wr x.rd c
    refine .inl ⟨rfl, ?_⟩
    rw [recognise_eq, scansLeft, scansLeft, if_pos hp]
    show (x.wr - (x.rd - rewind c)).toNat + 0 < _
    omega
  | stored c hp hn hlt =>
    refine .inl ⟨rfl, ?_⟩
    have hrd := afterMove_rd_of_room hn hlt
    have hleft : scansLeft (polled (afterMove c x)) =
        (x.wr - (afterMove c x).rd).toNat + if x.ptype = .unknown then 3 else 0 := rfl
    rw [hleft, hrd, scansLeft]
    omega
  | ended c t hp hn hfull hf =>
    have hend := Finishes.endingBytes_le (s := polled (afterMove c x)) hp hfull hf
    have hmove := frameBytes_afterMove hp hn hr
    rw [endingBytes_polled, endingBytes_of_known ((afterMove_ptype c x).trans hp)] at hend
    refine .inr ⟨by rw [hf.frame], by rw [hf.frame], ?_⟩
    rw [endingBytes_of_known hp]
    omega

theorem FirstScan.endingBytes_le {x t : State} (h : FirstScan x t) (hr : x.rd ≠ x.wr) :
    endingBytes t ≤ endingBytes x := by
  cases h with
  | skipped hp hc =>
    have hu := unread_succ hr
    rw [endingBytes_polled, endingBytes_of_unknown hp, endingBytes_of_unknown (s := skipByte x) hp, skipByte_wr,
      skipByte_rd]
    omega
  | matched c hp hc =>
    have hu := unread_rewind x.wr x.rd c
    have hle := frameBytes_recognise_le c x
    rw [endingBytes_polled, endingBytes_of_unknown hp, endingBytes_of_known (c := c) (by rw [recognise_eq])]
    omega
  | stored c hp hn hlt =>
    rw [endingBytes_polled, endingBytes_of_known hp, endingBytes_of_known ((afterMove_ptype c x).trans hp)]
    exact frameBytes_afterMove hp hn hr
  | ended c t hp hn hfull hf =>
    obtain ⟨he, -⟩ | ⟨-, -, hle⟩ := (FirstScan.ended c t hp hn hfull hf).goes_on hr
    · rw [hf.frame] at he; cases congrArg State.busy he
    · omega

theorem Reads.endingBytes_le {x y : State} (hl : x.lengthBelowFrame) (h : Reads x y) :
    endingBytes y ≤ endingBytes x := by
  obtain ⟨t, ht, rfl⟩ := h.firstScan hl
  exact ht.endingBytes_le h.1

theorem ReadsMany.endingBytes_le {x y : State} (hx : x.Inv) (h : ReadsMany x y) : endingBytes y ≤ endingBytes x :=
  (h.induct (p := fun s => s.Inv ∧ endingBytes s ≤ endingBytes x)
    (fun hs hr => ⟨hr.inv hs.1, (hr.endingBytes_le hs.1.lengthBelow).trans hs.2⟩) ⟨hx, le_refl _⟩).2

/-- A poll call in progress, with no packet ended in it yet. -/
theorem scanWhileBusy_polled {fuel : Nat} : ∀ {x : State}, x.Inv → scansLeft x < fuel →
    ∃ h, scanWhileBusy fuel (polled x) = .next h ∧ PollCall x h := by
  induction fuel with
  | zero => exact fun _ h => absurd h (Nat.not_lt_zero _)
  | succ fuel ih =>
    intro x hi hfuel
    by_cases hr : x.rd = x.wr
    · have hend : exec .scan (polled x) = .next (quiet x) := exec_scan_of_drained (s := polled x) rfl hr
      rw [scanWhileBusy_succ fuel rfl hend, scanWhileBusy_of_idle rfl]
      exact ⟨quiet x, rfl, rfl, .refl, .inl ⟨rfl, hr⟩⟩
    · obtain ⟨t, ht, hfirst⟩ := exec_scan_polled hi.lengthBelow hr
      have hreads : Reads (quiet x) (quiet t) := ⟨hr, t, ht, rfl⟩
      have hti : t.Inv := exec_scan_inv (polled_inv.mpr hi) ht
      rw [scanWhileBusy_succ fuel rfl ht]
      obtain ⟨hpoll, hlt⟩ | ⟨hb, hp, hle⟩ := hfirst.goes_on hr
      · obtain ⟨h, hrun, hcall⟩ := ih hti (by omega)
        rw [hpoll]
        refine ⟨h, hrun, hcall.idle, .head hreads hcall.reads, hcall.ends.imp_right ?_⟩
        rintro ⟨-, hp, hle⟩
        exact ⟨hr, hp, hle.trans (hfirst.endingBytes_le hr)⟩
      · rw [scanWhileBusy_of_idle hb]
        exact ⟨t, rfl, hb, .single hreads, .inr ⟨hr, hp, hle⟩⟩

theorem pollAll_of_idle {x : State} (hb : x.busy = false) (hi : x.Inv) : ∃ h, pollAll x = .next h ∧ PollCall x h := by
  have hpoll : exec .poll x = .next (polled x) := by simp [exec, execPoll, hb, polled]
  rw [pollAll, hpoll]
  exact scanWhileBusy_polled hi (scansLeft_lt x)

theorem PollCall.inv {x h : State} (hc : PollCall x h) (hi : x.Inv) : h.Inv :=
  quiet_inv.mp (hc.reads.inv (quiet_inv.mpr hi))

/-- Enough poll calls drain the ring: one, and one for each packet that may end. -/
theorem runLines_polls {m : Nat} : ∀ {x : State}, x.busy = false → x.Inv →
    x.rd = x.wr ∧ 0 < m ∨ endingBytes x < 11 * m →
    ∃ z, runLines (List.replicate m .pollAll) x = .next z ∧ Drains (quiet x) z := by
  induction m with
  | zero => exact fun _ _ h => absurd h (by omega)
  | succ m ih =>
    intro x hb hi henough
    obtain ⟨h, hrun, hcall⟩ := pollAll_of_idle hb hi
    have hstep : runLines (List.replicate (m + 1) .pollAll) x = runLines (List.replicate m .pollAll) h := by
      rw [List.replicate_succ, runLines, runLine, hrun]
    rw [hstep]
    by_cases hdone : h = quiet h ∧ h.rd = h.wr ∧ m = 0
    · obtain ⟨hq, hrd, rfl⟩ := hdone
      exact ⟨h, rfl, hq ▸ hcall.reads, hrd, hq⟩
    · obtain ⟨z, hz, hd⟩ := ih hcall.idle (hcall.inv hi) (by
        obtain ⟨hq, hrd⟩ | ⟨hne, -, hle⟩ := hcall.ends
        · exact .inl ⟨hrd, Nat.pos_of_ne_zero fun hm => hdone ⟨hq, hrd, hm⟩⟩
        · right
          obtain ⟨he, -⟩ | hlt := henough
          · exact absurd he hne
          · omega)
      exact ⟨z, hz, hcall.reads.trans hd.reads, hd.drained, hd.quiet⟩

theorem exists_drains {x : State} (hi : x.Inv) : ∃ z, Drains (quiet x) z := by
  obtain ⟨z, -, hz⟩ := runLines_polls (m := endingBytes x + 1) (x := quiet x) rfl (quiet_inv.mpr hi)
    (.inr (by rw [endingBytes_quiet]; omega))
  exact ⟨z, hz⟩

end Sys2Proof.Machine
end

section
/-! PROOFS. Reading is the same with more bytes behind the write cursor, as long as they lie in no cell that is read and
the read cursor does not meet the new write cursor (40_ring_buffer R98); and what one byte that arrives can make the block
read. -/

namespace Sys2Proof.Machine

/-! ## Reads in another ring -/

/-- The state with the ring memory and the write cursor that later bytes leave, as each byte leaves LINK and AGE. -/
def arrived (m : Memory) (wr : Byte) (s : State) : State := quiet { rxLink s with buf := m, wr := wr }

theorem arrived_arrived (m m' : Memory) (wr wr' : Byte) (s : State) :
    arrived m wr (arrived m' wr' s) = arrived m wr s := by
  have hl : rxLink (rxLink s) = rxLink s := rxLink_rxLink s
  by_cases h : s.link = .unavailable <;> simp [arrived, quiet, rxLink, h]

theorem quiet_receive (b : Byte) (s : State) :
    quiet (receive b s) = arrived (s.buf.write s.wr.toNat b) (s.wr + 1) s := rfl

/-- The window that ends on a cell (41_synchronizer R101). -/
def windowAt (m : Memory) (i : Byte) : Window :=
  Window.ofBytes (m.read (i - 3).toNat) (m.read (i - 2).toNat) (m.read (i - 1).toNat) (m.read i.toNat)

theorem window_eq (s : State) : window s = windowAt s.buf s.rd := rfl

theorem windowAt_congr {m m' : Memory} {i : Byte} (h : ∀ k : Byte, k ≤ 3 → m.read (i - k).toNat = m'.read (i - k).toNat) :
    windowAt m i = windowAt m' i := by
  have h0 : m.read i.toNat = m'.read i.toNat := by simpa using h 0 (by decide)
  rw [windowAt, windowAt, h 3 (by decide), h 2 (by decide), h 1 (by decide), h0]

/-- What the next read looks at is the same in the other ring, and RD has not met its write cursor. -/
structure SeesSame (m : Memory) (wr : Byte) (s : State) : Prop where
  short : s.rd ≠ wr
  byte : s.ptype ≠ .unknown → m.read s.rd.toNat = s.buf.read s.rd.toNat
  signature : s.ptype = .unknown → classify s.params (windowAt m s.rd) = classify s.params (window s)

/-- The same as a change of the ring, where the link is up: LINK is what it was. -/
def ringOf (m : Memory) (wr : Byte) : RingMap := ⟨fun _ => m, fun _ => wr, fun _ => wr, fun _ => 0⟩

theorem arrived_of_linked {m : Memory} {wr : Byte} {s : State} (h : s.link ≠ .unavailable) :
    arrived m wr s = quiet ((ringOf m wr).apply s) := by
  simp [arrived, quiet, rxLink, ringOf, RingMap.apply, h]

theorem Reads.in_ring {m : Memory} {wr : Byte} {x y : State} (h : Reads x y) (hl : x.link ≠ .unavailable)
    (hs : SeesSame m wr x) : Reads (arrived m wr x) (arrived m wr y) := by
  have hly := h.linked hl
  obtain ⟨hr, t, ht, rfl⟩ := h
  have hscan := exec_scan_ringMap (f := ringOf m wr) (s := polled x)
    ⟨iff_of_false hs.short hr, hs.byte, hs.signature⟩
  rw [arrived_of_linked hl, arrived_of_linked hly]
  exact ⟨hs.short, (ringOf m wr).apply t, hscan.trans (congrArg _ ht), rfl⟩

/-- Reads along which every state sees the same are reads in the other ring. -/
theorem ReadsMany.in_ring {m : Memory} {wr : Byte} {x z : State} (h : ReadsMany x z) (hl : x.link ≠ .unavailable)
    (hs : ∀ y, ReadsMany x y → y.rd ≠ y.wr → SeesSame m wr y) : ReadsMany (arrived m wr x) (arrived m wr z) := by
  induction h with
  | refl => exact .refl
  | tail hxy hr ih => exact ih.tail (hr.in_ring (ReadsMany.linked hxy hl) (hs _ hxy hr.1))

/-! ## What a byte can make the block read -/

/-- Where the block can be after a byte `b` has come to a drained state `f`, and before it has drained again: at the byte,
read by the synchronizer only where `f` says so, or within a packet whose signature ends on the byte. -/
inductive Absorbing (f : State) (b : Byte) (y : State) : Prop
  | drained : y.rd = y.wr → Absorbing f b y
  | at_byte : y.rd = f.wr → (synchronizerReads y b → synchronizerReads f b) → Absorbing f b y
  | in_packet (c : PacketClass) : y.ptype = .known c → y.plen.toNat + 2 * (y.wr - y.rd).toNat ≤ 6 →
      synchronizerReads f b → classify y.params (windowAt y.buf f.wr) = some c → Absorbing f b y

/-- A move from a packet that is not nearly full consumes the byte and stores at most two. -/
theorem afterMove_of_short {c : PacketClass} {s : State} (hn : s.plen.toNat < 11) :
    s.plen.toNat < frameLen c ∧ (afterMove c s).rd = s.rd + 1 ∧ (afterMove c s).plen.toNat ≤ s.plen.toNat + 2 ∧
      (afterMove c s).plen.toNat < frameLen c := by
  have hlen : 13 ≤ frameLen c := by cases c <;> decide
  have hroom : s.plen.toNat < frameLen c := by omega
  have htwo : (decoderMove c s).stores.length ≤ 2 := by
    cases c with
    | magTime => exact Nat.le_succ 1
    | magStatus => exact Nat.le_succ 1
    | trimble =>
      obtain ⟨-, -, e⟩ | ⟨-, -, e⟩ | ⟨-, -, e⟩ | ⟨-, -, -, e⟩ | ⟨-, -, -, e⟩ := decoderMove_trimble s <;>
        simp [e]
  have hplen := afterMove_plen hroom
  have hlt : (afterMove c s).plen.toNat < frameLen c := by omega
  exact ⟨hroom, afterMove_rd_of_room hroom hlt, by omega, hlt⟩

/-- A read within a packet that is not nearly full. -/
theorem Reads.of_short {c : PacketClass} {x y : State} (hp : x.ptype = .known c) (hn : x.plen.toNat < 11)
    (h : Reads x y) : y = quiet (afterMove c x) := by
  obtain ⟨hroom, -, -, hlt⟩ := afterMove_of_short (c := c) hn
  have hl : x.lengthBelowFrame := by simpa only [State.lengthBelowFrame, hp] using hroom
  obtain ⟨t, ht, rfl⟩ := h.firstScan hl
  cases ht with
  | skipped hu => rw [hp] at hu; cases hu
  | matched _ hu => rw [hp] at hu; cases hu
  | stored c' hc => rw [hp] at hc; cases hc; rfl
  | ended c' t hc _ hfull => rw [hp] at hc; cases hc; omega

theorem Absorbing.step {f : State} {b : Byte} {x y : State} (hx : Absorbing f b x) (hi : x.Inv) (hwr : x.wr = f.wr + 1)
    (hbuf : x.buf.read f.wr.toNat = b) (h : Reads x y) : Absorbing f b y := by
  cases hx with
  | drained hd => exact absurd h (not_reads_of_drained hd)
  | at_byte hrd hsync =>
    obtain ⟨t, ht, rfl⟩ := h.firstScan hi.lengthBelow
    cases ht with
    | skipped hp hc =>
      refine .drained ?_
      show x.rd + 1 = x.wr
      rw [hrd, hwr]
    | matched c hp hc =>
      rw [recognise_eq]
      refine .in_packet c rfl ?_ (hsync (.inl hp)) (by rw [← hrd]; exact hc)
      have h3 : (f.wr + 1 - (f.wr - rewind c)).toNat = 3 := by
        cases c <;> simp only [rewind, mgRewind, tbRewind] <;> bv_omega
      show (0 : BitVec 5).toNat + 2 * (x.wr - (x.rd - rewind c)).toNat ≤ 6
      rw [hrd, hwr, h3]
      decide
    | stored c hp hn hlt =>
      refine .drained ?_
      show (afterMove c x).rd = x.wr
      rw [afterMove_rd_of_room hn hlt, hrd, hwr]
    | ended c t hp hn hfull hf =>
      have hrd' : t.rd = (afterMove c x).rd := by rw [hf.frame]; rfl
      have hwr' : t.wr = x.wr := by rw [hf.frame]; rfl
      cases hcons : (decoderMove c x).consumes with
      | true =>
        refine .drained ?_
        rw [quiet_rd, quiet_wr, hrd', hwr', afterMove_rd hcons, hrd, hwr]
      | false =>
        obtain ⟨rfl, he, h20, hb, -⟩ := decoderMove_consumes hn hcons
        have hstay : (afterMove .trimble x).rd = x.rd := if_neg (by rw [hcons]; decide)
        rw [hrd, hbuf] at hb
        refine .at_byte (by rw [quiet_rd, hrd', hstay, hrd]) fun _ => hsync (.inr ⟨hp, he, ?_, hb⟩)
        exact BitVec.eq_of_toNat_eq h20
  | in_packet c hp hle hsync hc =>
    have hu := unread_succ h.1
    have hn : x.plen.toNat < 11 := by omega
    obtain ⟨-, hrd, hplen, -⟩ := afterMove_of_short (c := c) hn
    rw [h.of_short hp hn]
    refine .in_packet c hp ?_ hsync hc
    show (afterMove c x).plen.toNat + 2 * (x.wr - (afterMove c x).rd).toNat ≤ 6
    rw [hrd]
    omega

theorem receive_inv (b : Byte) {s : State} (hi : s.Inv) : (receive b s).Inv := exec_inv hi (exec_rxb b s)

theorem quiet_receive_inv (b : Byte) {s : State} (hi : s.Inv) : (quiet (receive b s)).Inv :=
  quiet_inv.mpr (receive_inv b hi)

theorem receive_linked (b : Byte) (f : State) : (receive b f).link ≠ .unavailable := by
  show (if f.link = .unavailable then Link.syncing else f.link) ≠ .unavailable
  split
  · exact Link.noConfusion
  · assumption

theorem absorbing_of_reads {f : State} {b : Byte} {y : State} (hi : f.Inv) (hd : f.rd = f.wr)
    (h : ReadsMany (quiet (receive b f)) y) : Absorbing f b y := by
  refine (ReadsMany.induct (p := fun y => (Absorbing f b y ∧ y.Inv) ∧ SameRing (quiet (receive b f)) y) ?_ h
    ⟨⟨.at_byte hd id, quiet_receive_inv b hi⟩, rfl, rfl, rfl, rfl⟩).1.1
  rintro x y ⟨⟨hx, hxi⟩, hring⟩ hr
  have hbuf : x.buf.read f.wr.toNat = b := by rw [hring.buf]; exact Memory.read_write_self _ _ _
  exact ⟨⟨hx.step hxi hring.wr hbuf hr, hr.inv hxi⟩, hring.trans hr.sameRing⟩

/-- What the block may read of a byte `b` that comes to `f` is the same in the other ring, and RD does not meet its write
cursor. -/
structure ByteSeesSame (m : Memory) (wr : Byte) (f : State) (b : Byte) : Prop where
  short : wr ≠ f.wr
  byte : m.read f.wr.toNat = b
  signature : synchronizerReads f b →
    classify f.params (windowAt m f.wr) = classify f.params (windowAt (receive b f).buf f.wr)
  packet : ∀ c, synchronizerReads f b → classify f.params (windowAt (receive b f).buf f.wr) = some c →
    ∀ k : Byte, k = 1 ∨ k = 2 → m.read (f.wr - k).toNat = (receive b f).buf.read (f.wr - k).toNat ∧ f.wr - k ≠ wr

/-- Reading a byte is the same in another ring that looks the same. -/
theorem readsMany_arrived {m : Memory} {wr : Byte} {f : State} {b : Byte} {g : State} (hi : f.Inv) (hd : f.rd = f.wr)
    (h : ReadsMany (quiet (receive b f)) g) (hs : ByteSeesSame m wr f b) :
    ReadsMany (arrived m wr f) (arrived m wr g) := by
  have hstart : arrived m wr (quiet (receive b f)) = arrived m wr f := by
    rw [quiet_receive, arrived_arrived]
  rw [← hstart]
  refine h.in_ring (receive_linked b f) fun y hy hr => ?_
  have hring := hy.sameRing
  have hbuf : y.buf = (receive b f).buf := hring.buf
  have hwr : y.wr = f.wr + 1 := hring.wr
  have hP : y.params = f.params := hring.params
  have hbyte : m.read f.wr.toNat = y.buf.read f.wr.toNat := by
    rw [hs.byte, hbuf]; exact (Memory.read_write_self _ _ _).symm
  obtain hdr | ⟨hrd, hsync⟩ | ⟨c, hp, hle, hsync, hc⟩ := absorbing_of_reads hi hd hy
  · exact absurd hdr hr
  · refine ⟨by rw [hrd]; exact hs.short.symm, fun _ => by rw [hrd]; exact hbyte, fun hp => ?_⟩
    rw [window_eq, hP, hrd, hbuf]
    exact hs.signature (hsync (.inl hp))
  · rw [hP, hbuf] at hc
    have hcell := hs.packet c hsync hc
    have hu := unread_succ hr
    have hwhere : y.rd = f.wr ∨ y.rd = f.wr - 1 ∨ y.rd = f.wr - 2 := by bv_omega
    have hhere : y.rd ≠ wr ∧ m.read y.rd.toNat = y.buf.read y.rd.toNat := by
      obtain e | e | e := hwhere <;> rw [e]
      · exact ⟨hs.short.symm, hbyte⟩
      · obtain ⟨hread, hne⟩ := hcell 1 (.inl rfl)
        exact ⟨hne, hbuf ▸ hread⟩
      · obtain ⟨hread, hne⟩ := hcell 2 (.inr rfl)
        exact ⟨hne, hbuf ▸ hread⟩
    obtain ⟨hne, hread⟩ := hhere
    exact ⟨hne, fun _ => hread, fun hunknown => by rw [hp] at hunknown; cases hunknown⟩

end Sys2Proof.Machine
end

section
/-! PROOFS. Bytes fed one at a time and bytes pushed in one batch, each as reads (30_encoding R83, 40_ring_buffer R98).
A poll call can leave the last byte unread, where a held lone DLE ends its packet (42_trimble_decoder R116); the next one
reads it. -/

namespace Sys2Proof.Machine

/-! ## Bytes fed -/

/-- Bytes that come to a drained state one at a time, each read before the next comes. -/
inductive Feeds : State → List Byte → State → Prop
  | nil (f : State) : Feeds f [] f
  | cons {f g z : State} {b : Byte} {rest : List Byte} : Drains (quiet (receive b f)) g → Feeds g rest z →
      Feeds f (b :: rest) z

/-- A state that FEED passes through, and the state it drains to: what is left unread is less than a frame takes, and where
a byte is left a packet has just ended. -/
structure Follows (s z : State) : Prop where
  idle : s.busy = false
  inv : s.Inv
  few : endingBytes s ≤ 15
  linked : s.rd = s.wr ∨ s.link ≠ .unavailable
  drains : Drains (quiet s) z
  lag : z = quiet s ∨ s.ptype = .unknown

theorem unread_le_endingBytes (s : State) : (s.wr - s.rd).toNat ≤ endingBytes s + 8 := by
  unfold endingBytes frameBytes
  rcases s.ptype with _ | _ | _ | _ <;> dsimp only <;> omega

/-- A packet in progress holds at most 15 bytes of those it may end on. -/
theorem endingBytes_le_unread {s : State} (hi : s.Inv) : endingBytes s ≤ (s.wr - s.rd).toNat + 15 := by
  have he : s.esc.toNat ≤ 1 := Bool.toNat_le _
  cases hp : s.ptype with
  | unknown => rw [endingBytes_of_unknown hp]; omega
  | known c =>
    have hn := lengthBelow_of_known hi.lengthBelow hp
    rw [endingBytes_of_known hp, frameBytes, hp]
    cases c <;> simp only [frameLen, mgLenTime, mgLenStatus, tbLen] at hn ⊢ <;> omega

theorem endingBytes_of_drained {s : State} (hi : s.Inv) (hd : s.rd = s.wr) : endingBytes s ≤ 15 := by
  have h := endingBytes_le_unread hi
  rw [hd, BitVec.sub_self] at h
  exact h

theorem endingBytes_receive (b : Byte) (s : State) : endingBytes (receive b s) ≤ endingBytes s + 1 := by
  have hu : (s.wr + 1 - s.rd).toNat ≤ (s.wr - s.rd).toNat + 1 := by bv_omega
  have hp : (receive b s).ptype = s.ptype := rfl
  have hr : ((receive b s).wr - (receive b s).rd) = s.wr + 1 - s.rd := rfl
  have hn : (receive b s).plen = s.plen := rfl
  have he : (receive b s).esc = s.esc := rfl
  unfold endingBytes frameBytes
  rw [hp, hr, hn, he]
  rcases s.ptype with _ | _ | _ | _ <;> dsimp only <;> omega

theorem follows_of_drained {s : State} (hi : s.Inv) (hd : s.drained) : Follows s (quiet s) :=
  ⟨hd.1, hi, endingBytes_of_drained hi hd.2, .inl hd.2, ⟨.refl, hd.2, rfl⟩, .inl rfl⟩

/-- A byte that comes now lies in no cell that the next read looks at. -/
theorem seesSame_receive {y : State} (b : Byte) (hfew : endingBytes y ≤ 15) (hr : y.rd ≠ y.wr) :
    SeesSame (y.buf.write y.wr.toNat b) (y.wr + 1) y := by
  have hunread := unread_le_endingBytes y
  have hcell : ∀ k : Byte, k ≤ 3 →
      (y.buf.write y.wr.toNat b).read (y.rd - k).toNat = y.buf.read (y.rd - k).toNat := fun k hk =>
    Memory.read_write_of_ne _ _ (by bv_omega)
  refine ⟨by bv_omega, fun _ => by simpa using hcell 0 (by decide), fun _ => ?_⟩
  rw [window_eq, windowAt_congr hcell]

/-- The byte left unread may as well be read before the next one comes. -/
theorem Follows.receive {s z : State} (h : Follows s z) (b : Byte) :
    ReadsMany (quiet (receive b s)) (quiet (receive b z)) := by
  obtain hd | hl := h.linked
  · rw [readsMany_of_drained (x := quiet s) hd h.drains.reads]
    exact .refl
  · have hring := h.drains.reads.sameRing
    have hs : quiet (Machine.receive b s) = arrived (s.buf.write s.wr.toNat b) (s.wr + 1) (quiet s) := rfl
    have hz : quiet (Machine.receive b z) = arrived (s.buf.write s.wr.toNat b) (s.wr + 1) z := by
      rw [quiet_receive, hring.buf, hring.wr]; rfl
    rw [hs, hz]
    refine h.drains.reads.in_ring hl fun y hy hr => ?_
    have hyr := hy.sameRing
    have hsees := seesSame_receive b ((hy.endingBytes_le (quiet_inv.mpr h.inv)).trans h.few) hr
    rwa [hyr.buf, hyr.wr] at hsees

/-- One byte fed. -/
theorem Follows.step {s z : State} (h : Follows s z) (b : Byte) :
    ∃ f g, pollAll (Machine.receive b s) = .next f ∧ Drains (quiet (Machine.receive b z)) g ∧ Follows f g := by
  have hi := receive_inv b h.inv
  obtain ⟨f, hrun, hcall⟩ := pollAll_of_idle (x := Machine.receive b s) h.idle hi
  have hzi : z.Inv := h.drains.reads.inv (quiet_inv.mpr h.inv)
  obtain ⟨g, hg⟩ := exists_drains (receive_inv b hzi)
  have hfi := hcall.inv hi
  have hfg : Drains (quiet f) g := hcall.reads.drains ⟨(h.receive b).trans hg.reads, hg.drained, hg.quiet⟩
  have hlinked : (quiet f).link ≠ .unavailable := hcall.reads.linked (receive_linked b s)
  have hone := endingBytes_receive b s
  have hfew := h.few
  refine ⟨f, g, hrun, hg, hcall.idle, hfi, ?_, .inr hlinked, hfg, ?_⟩
  · obtain ⟨-, hd⟩ | ⟨-, -, hle⟩ := hcall.ends
    · exact endingBytes_of_drained hfi hd
    · omega
  · exact hcall.ends.imp (fun hd => readsMany_of_drained (x := quiet f) hd.2 hfg.reads) fun hp => hp.2.1

theorem Follows.feed {bytes : List Byte} : ∀ {s z : State}, Follows s z →
    ∃ f w, Machine.feed bytes s = .next f ∧ Feeds z bytes w ∧ Follows f w := by
  induction bytes with
  | nil => exact fun {s z} h => ⟨s, z, rfl, .nil z, h⟩
  | cons b rest ih =>
    intro s z h
    obtain ⟨f, g, hrun, hg, hf⟩ := h.step b
    obtain ⟨f', w, hfeed, hw, hf'⟩ := ih hf
    refine ⟨f', w, ?_, .cons hg hw, hf'⟩
    rw [Machine.feed, exec_rxb]
    dsimp only
    rw [hrun]
    exact hfeed

/-- Bytes fed and then poll calls, two at least if there was a byte. -/
theorem runLines_feed {bytes : List Byte} {s : State} {m : Nat} (hi : s.Inv) (hd : s.drained) (hm : 0 < m)
    (hm2 : bytes ≠ [] → 2 ≤ m) : ∃ w, runLines (.feed bytes :: List.replicate m .pollAll) s = .next w ∧
      Feeds (quiet s) bytes w ∧ w.rd = w.wr ∧ w = quiet w := by
  obtain ⟨f, w, hfeed, hw, hf⟩ := (follows_of_drained hi hd).feed (bytes := bytes)
  have hfew := hf.few
  obtain ⟨t, ht, hdr⟩ := runLines_polls (m := m) hf.idle hf.inv (by
    by_cases hb : bytes = []
    · subst hb
      cases hfeed
      exact .inl ⟨hd.2, hm⟩
    · have := hm2 hb
      exact .inr (by omega))
  obtain rfl := hdr.unique hf.drains
  refine ⟨t, ?_, hw, hdr.drained, hdr.quiet⟩
  rw [runLines, runLine, hfeed]
  exact ht

/-! ## A batch -/

theorem receiveAll_inv {bytes : List Byte} : ∀ {s : State}, s.Inv → (receiveAll bytes s).Inv := by
  induction bytes with
  | nil => exact id
  | cons b rest ih => exact fun hi => ih (receive_inv b hi)

theorem endingBytes_receiveAll (bytes : List Byte) (s : State) :
    endingBytes (receiveAll bytes s) ≤ endingBytes s + bytes.length := by
  induction bytes generalizing s with
  | nil => exact le_refl _
  | cons b rest ih =>
    have h := ih (receive b s)
    have h1 := endingBytes_receive b s
    rw [receiveAll, List.length_cons]
    omega

/-- A batch and then poll calls. -/
theorem runLines_rx {bytes : List Byte} {s : State} (hi : s.Inv) (hd : s.drained) :
    ∃ u, runLines (.rx bytes :: List.replicate (bytes.length + 1) .pollAll) s = .next u ∧
      Drains (quiet (receiveAll bytes s)) u := by
  have hidle : (receiveAll bytes s).busy = false := by rw [(receiveAll_frame bytes s).2.2]; exact hd.1
  have hfew := endingBytes_receiveAll bytes s
  have h15 := endingBytes_of_drained hi hd.2
  obtain ⟨u, hu, hdr⟩ := runLines_polls (m := bytes.length + 1) hidle (receiveAll_inv hi) (by
    cases bytes with
    | nil => exact .inl ⟨hd.2, Nat.one_pos⟩
    | cons b rest => right; rw [List.length_cons] at hfew ⊢; omega)
  refine ⟨u, ?_, hdr⟩
  rw [runLines, runLine, runOps_rxb]
  exact hu

end Sys2Proof.Machine
end

section
/-! PROOFS. Buffering is transparent (40_ring_buffer R98): the reads of bytes fed one at a time are reads of the same bytes
in one batch, but where a signature ends on one of the first bytes of a batch of 254 or 255. -/

namespace Sys2Proof.Machine

/-! ## The ring after bytes -/

/-- Up to 256 bytes stored from an index on, read back. -/
theorem read_writeRingFrom {bytes : List Byte} (hlen : bytes.length ≤ 256) (i a : Byte) (s : State) :
    (writeRingFrom i bytes s).buf.read a.toNat = bytes[(a - i).toNat]?.getD (s.buf.read a.toNat) := by
  by_cases h : (a - i).toNat < bytes.length
  · have ha : a.toNat = (i.toNat + (a - i).toNat) % 256 := by bv_omega
    rw [List.getElem?_eq_getElem h, Option.getD_some, ← read_writeRingFrom_newest bytes i s h (by omega), ← ha]
  · rw [List.getElem?_eq_none (by omega), Option.getD_none]
    exact read_writeRingFrom_of_ne bytes i s fun k hk => by bv_omega

/-- The ring that bytes leave after those it holds. -/
abbrev ringAfter (bytes : List Byte) (s : State) : Memory := (writeRingFrom s.wr bytes s).buf

theorem ringAfter_quiet (bytes : List Byte) (s : State) : ringAfter bytes (quiet s) = ringAfter bytes s :=
  writeRingFrom_congr _ _ rfl

/-- The write cursor after bytes. -/
abbrev wrAfter (bytes : List Byte) (s : State) : Byte := s.wr + BitVec.ofNat 8 bytes.length

/-- What a state that bytes were fed to keeps. -/
structure FedTo (f : State) (bytes : List Byte) (g : State) : Prop where
  inv : g.Inv
  drained : g.rd = g.wr
  buf : g.buf = ringAfter bytes f
  wr : g.wr = wrAfter bytes f
  params : g.params = f.params

theorem Drains.inv {x z : State} (h : Drains x z) (hi : x.Inv) : z.Inv := h.reads.inv hi

theorem Feeds.fedTo {f g : State} {bytes : List Byte} (h : Feeds f bytes g) (hi : f.Inv) (hd : f.rd = f.wr) :
    FedTo f bytes g := by
  induction h with
  | nil f => exact ⟨hi, hd, rfl, (BitVec.add_zero _).symm, rfl⟩
  | @cons f g z b rest hg _ ih =>
    have hz := ih (hg.inv (quiet_receive_inv b hi)) hg.drained
    have hring := hg.reads.sameRing
    have hbuf : g.buf = (writeRing f.wr b f).buf := hring.buf
    have hwr : g.wr = f.wr + 1 := hring.wr
    refine ⟨hz.inv, hz.drained, hz.buf.trans ?_, hz.wr.trans ?_, hz.params.trans hring.params⟩
    · rw [ringAfter, hwr]
      exact writeRingFrom_congr _ _ hbuf
    · rw [wrAfter, hwr, wrAfter, List.length_cons]
      bv_omega

theorem Feeds.unique {f g g' : State} {bytes : List Byte} (h : Feeds f bytes g) (h' : Feeds f bytes g') : g = g' := by
  induction h with
  | nil f => cases h'; rfl
  | cons hg _ ih =>
    cases h' with
    | cons hg' hr' =>
      obtain rfl := hg.unique hg'
      exact ih hr'

/-- The ring when byte `k` has come is that of the bytes up to it. -/
theorem receive_buf_of_feeds {f g : State} {bytes : List Byte} {k : Nat} (hk : k < bytes.length)
    (h : FedTo f (bytes.take k) g) : (receive bytes[k] g).buf = ringAfter (bytes.take (k + 1)) f := by
  have hlen : (bytes.take k).length = k := List.length_take_of_le hk.le
  show g.buf.write g.wr.toNat bytes[k] = _
  rw [ringAfter, List.take_add_one, List.getElem?_eq_getElem hk, Option.toList_some, writeRingFrom_append, h.wr, h.buf]
  rfl

/-! ## A batch without a signature on its first bytes -/

/-- No signature ends on a byte whose look-behind the batch overwrites, if the synchronizer reads the byte: neither in the
ring as the byte comes nor in the ring as the batch leaves it. -/
def FindsNone (bytes : List Byte) (f : State) : Prop :=
  ∀ (k : Nat) (h : k < bytes.length), k + 253 < bytes.length → ∀ g, Feeds f (bytes.take k) g →
    synchronizerReads g bytes[k] →
    classify f.params (windowAt (receive bytes[k] g).buf g.wr) = none ∧
      classify f.params (windowAt (ringAfter bytes f) g.wr) = none

/-- The first byte of a batch is read in the batch's ring as it is when it comes alone. -/
theorem byteSeesSame_head {b : Byte} {rest : List Byte} {f : State} (hlen : (b :: rest).length ≤ 255)
    (hnone : 253 < (b :: rest).length → synchronizerReads f b →
      classify f.params (windowAt (receive b f).buf f.wr) = none ∧
        classify f.params (windowAt (ringAfter (b :: rest) f) f.wr) = none) :
    ByteSeesSame (ringAfter (b :: rest) f) (wrAfter (b :: rest) f) f b := by
  have hpos : 0 < (b :: rest).length := Nat.succ_pos _
  have hread := read_writeRingFrom (bytes := b :: rest) (by omega) f.wr
  have hbyte : (ringAfter (b :: rest) f).read f.wr.toNat = b := by simpa using hread f.wr f
  have hshort : wrAfter (b :: rest) f ≠ f.wr := by bv_omega
  by_cases hfew : (b :: rest).length ≤ 253
  · have hcell : ∀ k : Byte, k ≤ 3 →
        (ringAfter (b :: rest) f).read (f.wr - k).toNat = (receive b f).buf.read (f.wr - k).toNat := fun k hk => by
      by_cases h0 : k = 0
      · have hself : f.wr - k = f.wr := by rw [h0]; exact BitVec.sub_zero _
        rw [hself, hbyte]
        exact (Memory.read_write_self _ _ _).symm
      · have hout : (b :: rest)[(f.wr - k - f.wr).toNat]? = none := List.getElem?_eq_none (by bv_omega)
        rw [ringAfter, hread, hout]
        exact (Memory.read_write_of_ne _ _ (by bv_omega)).symm
    refine ⟨hshort, hbyte, fun _ => by rw [windowAt_congr hcell], fun _ _ _ k hk => ⟨hcell k ?_, ?_⟩⟩ <;>
      obtain rfl | rfl := hk
    · decide
    · decide
    · bv_omega
    · bv_omega
  · refine ⟨hshort, hbyte, fun hs => ?_, fun c hs hc => ?_⟩ <;> obtain ⟨hcome, hwhole⟩ := hnone (by omega) hs
    · exact hwhole.trans hcome.symm
    · rw [hcome] at hc
      cases hc

/-- The reads of bytes fed are reads of the batch, in the ring it leaves. -/
theorem Feeds.readsMany_arrived {f z : State} {bytes : List Byte} (h : Feeds f bytes z) (hi : f.Inv) (hd : f.rd = f.wr)
    (hlen : bytes.length ≤ 255) (hno : FindsNone bytes f) :
    ReadsMany (arrived (ringAfter bytes f) (wrAfter bytes f) f) (arrived (ringAfter bytes f) (wrAfter bytes f) z) := by
  induction h with
  | nil f => exact .refl
  | @cons f g z b rest hg hrest ih =>
    have hgf : FedTo f [b] g := Feeds.fedTo (.cons hg (.nil g)) hi hd
    have hring : ringAfter rest g = ringAfter (b :: rest) f := by
      rw [ringAfter, hgf.wr]
      exact writeRingFrom_congr _ _ hgf.buf
    have hwr : wrAfter rest g = wrAfter (b :: rest) f := by
      rw [wrAfter, hgf.wr, wrAfter, wrAfter, List.length_cons (as := rest)]
      simp only [List.length_singleton]
      bv_omega
    have hno' : FindsNone rest g := fun k hk h254 g' hg' hs => by
      rw [hring, hgf.params]
      exact hno (k + 1) (Nat.succ_lt_succ hk) (by rw [List.length_cons]; omega) g' (.cons hg hg') hs
    have htail := ih hgf.inv hgf.drained (by rw [List.length_cons] at hlen; omega) hno'
    rw [hring, hwr] at htail
    have hhead := byteSeesSame_head hlen fun h254 => hno 0 (Nat.succ_pos _) (by omega) f (.nil f)
    exact (Machine.readsMany_arrived hi hd hg.reads hhead).trans htail

/-- What every byte settles: AGE is 0 and the link is up, and nothing of a poll call is left. -/
structure Settled (z : State) : Prop where
  quiet : z = quiet z
  age : z.age = 0
  linked : z.link ≠ .unavailable

theorem Drains.settled {f g : State} {b : Byte} (h : Drains (Machine.quiet (receive b f)) g) : Settled g :=
  ⟨h.quiet, h.reads.sameRing.age, h.reads.linked (receive_linked b f)⟩

theorem Feeds.settled {f z : State} {bytes : List Byte} (h : Feeds f bytes z) (hf : Settled f) : Settled z := by
  induction h with
  | nil f => exact hf
  | cons hg _ ih => exact ih hg.settled

theorem arrived_of_settled {z : State} (h : Settled z) : arrived z.buf z.wr z = z := by
  rw [arrived_of_linked h.linked]
  conv_rhs => rw [h.quiet]
  simp [quiet, RingMap.apply, ringOf, h.age]

theorem quiet_receiveAll_cons (b : Byte) (rest : List Byte) (s : State) :
    quiet (receiveAll (b :: rest) s) =
      arrived (ringAfter (b :: rest) (quiet s)) (wrAfter (b :: rest) (quiet s)) (quiet s) := by
  rw [receiveAll_cons, ringAfter_quiet]
  rfl

/-- Without a signature on its first bytes, a batch drains to what its bytes fed give. -/
theorem Feeds.drains_batch {s z : State} {bytes : List Byte} (h : Feeds (quiet s) bytes z) (hi : s.Inv)
    (hd : s.rd = s.wr) (hlen : bytes.length ≤ 255) (hno : FindsNone bytes (quiet s)) :
    Drains (quiet (receiveAll bytes s)) z := by
  cases bytes with
  | nil => cases h; exact ⟨.refl, hd, rfl⟩
  | cons b rest =>
    have hz := h.fedTo (quiet_inv.mpr hi) hd
    have hset : Settled z := by
      cases h with
      | cons hg hrest => exact hrest.settled hg.settled
    have hreads := h.readsMany_arrived (quiet_inv.mpr hi) hd hlen hno
    rw [← hz.buf, ← hz.wr, arrived_of_settled hset, hz.buf, hz.wr, ← quiet_receiveAll_cons] at hreads
    exact ⟨hreads, hz.drained, hset.quiet⟩

/-! ## The look-behind of a batch -/

/-- The cells behind the first byte hold the bytes that will be stored there. -/
def LooksBehind (bytes : List Byte) (f : State) : Prop :=
  ∀ a : Byte, 253 ≤ (a - f.wr).toNat → ∀ v, bytes[(a - f.wr).toNat]? = some v → f.buf.read a.toNat = v

theorem lookBehindOf_eq (bytes : List Byte) (s : State) :
    lookBehindOf bytes s = { s with buf := (lookBehindOf bytes s).buf } := writeRingFrom_eq _ _ _

theorem read_lookBehindOf {bytes : List Byte} (hlen : bytes.length ≤ 255) (s : State) (a : Byte) :
    (lookBehindOf bytes s).buf.read a.toNat =
      if 253 ≤ (a - s.wr).toNat then bytes[(a - s.wr).toNat]?.getD (s.buf.read a.toNat) else s.buf.read a.toNat := by
  rw [lookBehindOf, read_writeRingFrom (by rw [List.length_drop]; omega), List.getElem?_drop]
  split
  · have hpos : 253 + (a - (s.wr + 253)).toNat = (a - s.wr).toNat := by bv_omega
    rw [hpos]
  · rw [List.getElem?_eq_none (by bv_omega), Option.getD_none]

theorem looksBehind_lookBehindOf {bytes : List Byte} (hlen : bytes.length ≤ 255) (s : State) :
    LooksBehind bytes (quiet (lookBehindOf bytes s)) := by
  have hwr : (lookBehindOf bytes s).wr = s.wr := by rw [lookBehindOf_eq]
  intro a ha v hv
  rw [quiet_wr, hwr] at ha hv
  show (lookBehindOf bytes s).buf.read a.toNat = v
  rw [read_lookBehindOf hlen, if_pos ha, hv, Option.getD_some]

/-- The batch overwrites the cells laid behind its first byte with the same bytes. -/
theorem ringAfter_lookBehindOf {bytes : List Byte} {s : State} (hlen : bytes.length ≤ 255) (hr : s.ringOk) :
    ringAfter bytes (lookBehindOf bytes s) = ringAfter bytes s := by
  have hwr : (lookBehindOf bytes s).wr = s.wr := by rw [lookBehindOf_eq]
  have hwf : (lookBehindOf bytes s).ringOk := writeRingFrom_ringOk _ _ hr
  refine Memory.ext_read (writeRingFrom_ringOk _ _ hwf) (writeRingFrom_ringOk _ _ hr) fun n => ?_
  by_cases hn : n < 256
  · have ha : (BitVec.ofNat 8 n).toNat = n := by rw [BitVec.toNat_ofNat]; omega
    have hread := read_writeRingFrom (bytes := bytes) (by omega) s.wr (BitVec.ofNat 8 n)
    rw [ha] at hread
    rw [ringAfter, hwr, hread, hread]
    cases hv : bytes[(BitVec.ofNat 8 n - s.wr).toNat]? with
    | some v => rfl
    | none =>
      have hb := read_lookBehindOf hlen s (BitVec.ofNat 8 n)
      rw [hv, Option.getD_none, ite_self, ha] at hb
      exact hb
  · have hout : ∀ {m : Memory}, m.wf ringSize → m.read n = unlisted := fun hm => Memory.read_of_le hm (not_lt.mp hn)
    rw [hout (writeRingFrom_ringOk _ _ hwf), hout (writeRingFrom_ringOk _ _ hr)]

theorem receiveAll_lookBehindOf {bytes : List Byte} {s : State} (hlen : bytes.length ≤ 255) (hr : s.ringOk) :
    receiveAll bytes (lookBehindOf bytes s) = receiveAll bytes s := by
  cases bytes with
  | nil => rw [lookBehindOf_short (Nat.zero_le _)]
  | cons b rest =>
    rw [receiveAll_cons, receiveAll_cons]
    have hring := ringAfter_lookBehindOf hlen hr
    rw [ringAfter, ringAfter] at hring
    rw [hring, lookBehindOf_eq]
    rfl

/-- Over its own look-behind, a byte ends the same window when it comes as when the batch is whole. -/
theorem windowAt_receive {bytes : List Byte} {f g : State} (hlen : bytes.length ≤ 255) (hf : LooksBehind bytes f) {k : Nat}
    (hk : k < bytes.length) (hg : FedTo f (bytes.take k) g) :
    windowAt (receive bytes[k] g).buf g.wr = windowAt (ringAfter bytes f) g.wr := by
  have hwr : g.wr = f.wr + BitVec.ofNat 8 k := by rw [hg.wr, wrAfter, List.length_take_of_le hk.le]
  rw [receive_buf_of_feeds hk hg, hwr]
  refine windowAt_congr fun j hj => ?_
  rw [read_writeRingFrom (by rw [List.length_take]; omega), read_writeRingFrom (by omega), List.getElem?_take]
  split
  · rfl
  · have hfar : 253 ≤ (f.wr + BitVec.ofNat 8 k - j - f.wr).toNat := by bv_omega
    rw [Option.getD_none]
    cases hv : bytes[(f.wr + BitVec.ofNat 8 k - j - f.wr).toNat]? with
    | none => rfl
    | some v => exact hf _ hfar v hv

/-! ## What `noSignatureAt` says of the bytes fed -/

/-- The synchronizer reads the next byte where FEED has come to, if it reads it where the ring is drained. -/
theorem Follows.synchronizerReads {s z : State} {b : Byte} (h : Follows s z) (hz : Machine.synchronizerReads z b) :
    Machine.synchronizerReads s b := by
  obtain rfl | hp := h.lag
  · exact hz
  · exact .inl hp

/-- What `noSignatureAt` asks of byte `k`, with the window as the byte comes to the drained state before it. -/
theorem noSignatureAt_iff {bytes : List Byte} {k : Nat} {s : State} (hi : s.Inv) (hd : s.drained) (hk : k < bytes.length) :
    ∃ f g, feed (bytes.take k) s = .next f ∧ Feeds (quiet s) (bytes.take k) g ∧ Follows f g ∧
      (noSignatureAt bytes k s ↔
        (synchronizerReads f bytes[k] → classify s.params (windowAt (receive bytes[k] g).buf g.wr) = none)) := by
  obtain ⟨f, g, hfeed, hg, hf⟩ := (follows_of_drained hi hd).feed (bytes := bytes.take k)
  refine ⟨f, g, hfeed, hg, hf, ?_⟩
  have hfed := hg.fedTo (quiet_inv.mpr hi) hd.2
  have hwr : g.wr = s.wr + BitVec.ofNat 8 k := by rw [hfed.wr, wrAfter, List.length_take_of_le hk.le]; rfl
  have hrx : runLine (.rx (bytes.take (k + 1))) s = .next (receiveAll (bytes.take (k + 1)) s) := runOps_rxb _ s
  have hwindow : window { receiveAll (bytes.take (k + 1)) s with rd := s.wr + BitVec.ofNat 8 k } =
      windowAt (receive bytes[k] g).buf g.wr := by
    rw [window_eq, hwr, receive_buf_of_feeds hk hfed, (receiveAll_frame _ s).1, ringAfter_quiet]
  constructor
  · intro h hs
    rw [← hwindow]
    exact h hk f _ hfeed hrx hs
  · intro h _ before after hb ha hs
    have hbf : before = f := by
      have hb' : feed (bytes.take k) s = .next before := hb
      rw [hfeed] at hb'
      cases hb'; rfl
    rw [hrx] at ha
    cases ha
    rw [hwindow]
    exact h (hbf ▸ hs)

/-- Byte `k` as `noSignatureAt` sees it, from the drained state that the bytes before it lead to. -/
theorem noSignatureAt.classify {bytes : List Byte} {k : Nat} {s g : State} (h : noSignatureAt bytes k s) (hi : s.Inv)
    (hd : s.drained) (hk : k < bytes.length) (hg : Feeds (quiet s) (bytes.take k) g)
    (hs : synchronizerReads g bytes[k]) :
    Sys2Proof.classify s.params (windowAt (receive bytes[k] g).buf g.wr) = none := by
  obtain ⟨f, g', -, hg', hf, hiff⟩ := noSignatureAt_iff hi hd hk
  obtain rfl := hg'.unique hg
  exact hiff.mp h (hf.synchronizerReads hs)

/-- From its own look-behind, no signature as bytes are fed is no signature as the batch is read. -/
theorem findsNone_of_looksBehind {bytes : List Byte} {s : State} (hi : s.Inv) (hd : s.drained) (hlen : bytes.length ≤ 255)
    (hb : LooksBehind bytes (quiet s)) (h : ∀ k, k + 253 < bytes.length → noSignatureAt bytes k s) :
    FindsNone bytes (quiet s) := by
  intro k hk h254 g hg hs
  have hnone := (h k h254).classify hi hd hk hg hs
  have hwindow := windowAt_receive hlen hb hk (hg.fedTo (quiet_inv.mpr hi) hd.2)
  exact ⟨hnone, hwindow ▸ hnone⟩

end Sys2Proof.Machine
end

section
/-! PROOFS. Batches of 254 and 255 bytes: the same reads with either look-behind where no signature ends on the first bytes,
and a batch lost where one does (20_memory R54, 40_ring_buffer R97 (c), R98). -/

namespace Sys2Proof.Machine

/-! ## Either look-behind -/

theorem lookBehindOf_inv {s : State} (bytes : List Byte) (hi : s.Inv) : (lookBehindOf bytes s).Inv := by
  obtain ⟨⟨hr, hs⟩, hp, hc⟩ := s.inv_iff.mp hi
  have hring : (lookBehindOf bytes s).ringOk := writeRingFrom_ringOk _ _ hr
  rw [lookBehindOf_eq]
  exact (State.inv_iff _).mpr ⟨⟨hring, hs⟩, hp, hc⟩

theorem lookBehindOf_drained {s : State} (bytes : List Byte) (hd : s.drained) : (lookBehindOf bytes s).drained := by
  rw [lookBehindOf_eq]
  exact hd

/-- Where no signature ends on the first byte with either look-behind, the byte leads to the same packet in progress. -/
theorem feeds_one_lookBehindOf {bytes : List Byte} {s g : State} {b : Byte} {rest : List Byte} (hi : s.Inv) (hd : s.drained)
    (hb : bytes = b :: rest) (h : noSignatureAt bytes 0 s) (h' : noSignatureAt bytes 0 (lookBehindOf bytes s))
    (hg : Drains (quiet (receive b s)) g) :
    ∃ g', Drains (quiet (receive b (lookBehindOf bytes s))) g' ∧
      ∀ b', synchronizerReads g b' → synchronizerReads g' b' := by
  subst hb
  have hk : 0 < (b :: rest).length := Nat.succ_pos _
  have hreg := lookBehindOf_eq (b :: rest) s
  have hi' := lookBehindOf_inv (b :: rest) hi
  have hd' := lookBehindOf_drained (b :: rest) hd
  generalize lookBehindOf (b :: rest) s = s' at *
  have hnone : synchronizerReads s b → classify s.params (windowAt (receive b s).buf s.wr) = none := fun hs =>
    h.classify (g := quiet s) hi hd hk (.nil _) hs
  have hnone' : synchronizerReads s b → classify s.params (windowAt (receive b s').buf s.wr) = none := fun hs => by
    have hs' : synchronizerReads (quiet s') b := by rw [hreg]; exact hs
    have hc := h'.classify hi' hd' hk (.nil _) hs'
    rw [hreg] at hc ⊢
    exact hc
  have hstart : quiet (receive b s') = arrived (receive b s').buf (s.wr + 1) s := by rw [hreg]; rfl
  have hsees : ByteSeesSame (receive b s').buf (s.wr + 1) s b := by
    refine ⟨by bv_omega, ?_, fun hs => (hnone' hs).trans (hnone hs).symm, fun c hs hc => ?_⟩
    · rw [hreg]; exact Memory.read_write_self _ _ _
    · rw [hnone hs] at hc; cases hc
  have hring := hg.reads.sameRing
  have hgwr : g.wr = s.wr + 1 := hring.wr
  refine ⟨arrived (receive b s').buf (s.wr + 1) g, ⟨?_, hg.drained.trans hgwr, rfl⟩, fun _ hs => hs⟩
  rw [hstart]
  exact readsMany_arrived hi hd.2 hg.reads hsees

/-- No signature with either look-behind is none as bytes are fed and none as the batch is read. -/
theorem findsNone_of_both {bytes : List Byte} {s : State} (hi : s.Inv) (hd : s.drained) (hlen : bytes.length ≤ 255)
    (h : ∀ k, k + 253 < bytes.length → noSignatureAt bytes k s ∧ noSignatureAt bytes k (lookBehindOf bytes s)) :
    FindsNone bytes (quiet s) := by
  intro k hk h254 g hg hs
  have hi' := lookBehindOf_inv bytes hi
  have hd' := lookBehindOf_drained bytes hd
  have hfed := hg.fedTo (quiet_inv.mpr hi) hd.2
  obtain ⟨g', hg', hs'⟩ : ∃ g', Feeds (quiet (lookBehindOf bytes s)) (bytes.take k) g' ∧ synchronizerReads g' bytes[k] := by
    obtain rfl | rfl : k = 0 ∨ k = 1 := by omega
    · refine ⟨quiet (lookBehindOf bytes s), .nil _, ?_⟩
      cases hg
      rw [lookBehindOf_eq]
      exact hs
    · obtain ⟨b, rest, hb⟩ := List.exists_cons_of_length_pos (Nat.zero_lt_of_lt hk)
      have htake : bytes.take 1 = [b] := by rw [hb]; rfl
      obtain ⟨h0, h0'⟩ := h 0 (by omega)
      rw [htake] at hg ⊢
      cases hg with
      | cons hg hnil =>
        cases hnil
        obtain ⟨g', hg', hs'⟩ := feeds_one_lookBehindOf hi hd hb h0 h0' hg
        exact ⟨g', .cons hg' (.nil _), hs' _ hs⟩
  have hnone := (h k h254).1.classify hi hd hk hg hs
  have hnone' := (findsNone_of_looksBehind hi' hd' hlen (looksBehind_lookBehindOf hlen s) (fun k hk => (h k hk).2) k hk h254
    g' hg' hs').2
  have hwr : g'.wr = g.wr := by
    have hsame : (lookBehindOf bytes s).wr = s.wr := by rw [lookBehindOf_eq]
    rw [(hg.fedTo (quiet_inv.mpr hi) hd.2).wr, (hg'.fedTo (quiet_inv.mpr hi') hd'.2).wr, wrAfter, wrAfter, quiet_wr,
      quiet_wr, hsame]
  have hP : (quiet (lookBehindOf bytes s)).params = s.params := by rw [lookBehindOf_eq]; rfl
  obtain ⟨⟨hr, -⟩, -⟩ := s.inv_iff.mp hi
  rw [ringAfter_quiet, ringAfter_lookBehindOf hlen hr, hwr, hP] at hnone'
  rw [ringAfter_quiet]
  exact ⟨hnone, hnone'⟩

/-! ## A signature on a first byte -/

/-- The match of the synchronizer as a read. -/
theorem reads_recognise {c : PacketClass} {y : State} (hr : y.rd ≠ y.wr) (hp : y.ptype = .unknown)
    (hc : classify y.params (window y) = some c) : Reads y (quiet (recognise c y)) := by
  refine ⟨hr, recognise c (polled y), ?_, by rw [recognise_eq, recognise_eq]; rfl⟩
  have hw : classify (polled y).params (window (polled y)) = some c := hc
  rw [execScan_of_synchronizing (s := polled y) ⟨rfl, hr, hp⟩, syncStep, hw]

/-- Where the synchronizer is to read a byte, it comes to it at once or after the end of the packet in progress. -/
theorem synchronizer_comes {x : State} {b : Byte} (hl : x.lengthBelowFrame) (hr : x.rd ≠ x.wr)
    (hb : x.buf.read x.rd.toNat = b) (h : synchronizerReads x b) :
    ∃ y, (y = x ∨ Reads x y) ∧ y.ptype = .unknown ∧ y.rd = x.rd := by
  obtain hp | ⟨hp, he, hn, hne⟩ := h
  · exact ⟨x, .inl rfl, hp, rfl⟩
  · have hn' : x.plen.toNat = 20 := by rw [hn]; rfl
    have hmove : decoderMove .trimble x = ⟨false, false, [x.params.dle]⟩ := by
      simp [decoderMove, he, hb, hne, hn']
    obtain ⟨t, ht, hfirst⟩ := exec_scan_polled hl hr
    refine ⟨quiet t, .inr ⟨hr, t, ht, rfl⟩, ?_⟩
    have hfull : (afterMove .trimble x).plen.toNat = frameLen .trimble := by
      rw [afterMove_plen (by rw [hn']; decide), hmove, hn']; rfl
    cases hfirst with
    | skipped hu => rw [hp] at hu; cases hu
    | matched _ hu => rw [hp] at hu; cases hu
    | stored c hc _ hlt => rw [hp] at hc; cases hc; omega
    | ended c t hc _ _ hf =>
      rw [hp] at hc
      cases hc
      have hstay : (afterMove .trimble x).rd = x.rd := if_neg (by rw [hmove]; exact Bool.false_ne_true)
      rw [hf.frame]
      exact ⟨rfl, hstay⟩

/-- A packet in progress that cannot end on the bytes to come, and what has been reported so far. -/
structure ShortPacket (n : Nat) (trace : List OutEvent) (ts : Timestamp) (y : State) : Prop where
  known : ∃ c, y.ptype = .known c
  short : y.plen.toNat + 2 * (y.wr - y.rd).toNat ≤ n
  trace : y.trace = trace
  curTs : y.curTs = ts

/-- Reading within such a packet reports nothing. -/
theorem ShortPacket.reads {n : Nat} {trace : List OutEvent} {ts : Timestamp} {x y : State} (h : ReadsMany x y) (hn : n ≤ 12)
    (hx : ShortPacket n trace ts x) : ShortPacket n trace ts y := by
  refine h.induct (p := ShortPacket n trace ts) ?_ hx
  rintro x y ⟨⟨c, hp⟩, hshort, htrace, hts⟩ hr
  have hu := unread_succ hr.1
  have hplen : x.plen.toNat < 11 := by omega
  obtain ⟨-, hrd, hle, -⟩ := afterMove_of_short (c := c) hplen
  rw [hr.of_short hp hplen]
  refine ⟨⟨c, hp⟩, ?_, htrace, hts⟩
  show (afterMove c x).plen.toNat + 2 * (x.wr - (afterMove c x).rd).toNat ≤ n
  rw [hrd]
  omega

/-- The synchronizer comes to a signature that ends on a byte and begins its packet, in another ring as well. -/
theorem match_comes {m : Memory} {wr : Byte} {f : State} {b : Byte} {c : PacketClass} (hi : f.Inv) (hd : f.rd = f.wr)
    (hs : synchronizerReads f b) (hc : classify f.params (windowAt (receive b f).buf f.wr) = some c)
    (hm : windowAt m f.wr = windowAt (receive b f).buf f.wr) (hb : m.read f.wr.toNat = b) (hwr : wr ≠ f.wr) :
    ∃ y, ReadsMany (quiet (receive b f)) y ∧ ReadsMany (arrived m wr f) (arrived m wr y) ∧
      y.ptype = .known c ∧ y.plen = 0 ∧ y.rd = f.wr - 2 := by
  have hstart : arrived m wr f = arrived m wr (quiet (receive b f)) := by rw [quiet_receive, arrived_arrived]
  have hlinked : (quiet (receive b f)).link ≠ .unavailable := receive_linked b f
  have hself : (receive b f).buf.read f.wr.toNat = b := Memory.read_write_self _ _ _
  have hne : f.wr ≠ f.wr + 1 := by bv_omega
  have hsees : ∀ y, SameRing (quiet (receive b f)) y → y.rd = f.wr → SeesSame m wr y := fun y hy hrd => by
    refine ⟨hrd ▸ hwr.symm, fun _ => ?_, fun _ => ?_⟩
    · rw [hrd, hy.buf, hb]; exact hself.symm
    · rw [window_eq, hrd, hm, hy.buf]; rfl
  obtain ⟨y, hxy, hp, hrd⟩ := synchronizer_comes (x := quiet (receive b f)) (b := b) (quiet_receive_inv b hi).lengthBelow
    (by rw [quiet_rd, quiet_wr]; exact hd ▸ hne) (by rw [quiet_rd]; exact hd ▸ hself) hs
  have hto : ReadsMany (quiet (receive b f)) y ∧ ReadsMany (arrived m wr f) (arrived m wr y) := by
    rw [hstart]
    obtain rfl | hr := hxy
    · exact ⟨.refl, .refl⟩
    · exact ⟨.single hr, .single (hr.in_ring hlinked (hsees _ ⟨rfl, rfl, rfl, rfl⟩ hd))⟩
  have hring := hto.1.sameRing
  have hywr : y.wr = f.wr + 1 := hring.wr
  have hrd' : y.rd = f.wr := hrd.trans hd
  have hmatch : Reads y (quiet (recognise c y)) := by
    refine reads_recognise (by rw [hrd', hywr]; exact hne) hp ?_
    rw [window_eq, hrd', hring.buf, hring.params]
    exact hc
  have hmatch' := hmatch.in_ring (hto.1.linked hlinked) (hsees y hring hrd')
  refine ⟨_, hto.1.tail hmatch, hto.2.tail hmatch', ?_⟩
  rw [recognise_eq, ← hrd']
  exact ⟨rfl, rfl, by cases c <;> rfl⟩

/-- A signature that ends on a byte, in another ring whose write cursor the rewind reaches or passes: the packet is begun in
both and comes to its end in neither. -/
theorem lost_of_signature {m : Memory} {wr : Byte} {f g u : State} {b : Byte} {c : PacketClass} (hi : f.Inv)
    (hd : f.rd = f.wr) (hs : synchronizerReads f b) (hc : classify f.params (windowAt (receive b f).buf f.wr) = some c)
    (hm : windowAt m f.wr = windowAt (receive b f).buf f.wr) (hb : m.read f.wr.toNat = b) (hwr : wr ≠ f.wr)
    (hback : (wr - (f.wr - 2)).toNat ≤ 1) (hg : Drains (quiet (receive b f)) g) (hu : Drains (arrived m wr f) u) :
    ShortPacket 6 g.trace g.curTs g ∧ u.trace = g.trace ∧ u.curTs = g.curTs := by
  obtain ⟨y, hy, hy', hp, hn, hrd⟩ := match_comes hi hd hs hc hm hb hwr
  have hywr : y.wr = f.wr + 1 := hy.sameRing.wr
  have hback3 : (f.wr + 1 - (f.wr - 2)).toNat = 3 := by bv_omega
  have h0 : y.plen.toNat = 0 := by rw [hn]; rfl
  have hshort : ShortPacket 6 y.trace y.curTs y := ⟨⟨c, hp⟩, by rw [h0, hywr, hrd, hback3], rfl, rfl⟩
  have hshort' : ShortPacket 6 y.trace y.curTs (arrived m wr y) := by
    refine ⟨⟨c, hp⟩, ?_, rfl, rfl⟩
    show y.plen.toNat + 2 * (wr - y.rd).toNat ≤ 6
    rw [h0, hrd]
    omega
  have hgs := hshort.reads (hy.drains hg).reads (by decide)
  have hus := hshort'.reads (hy'.drains hu).reads (by decide)
  exact ⟨⟨hgs.known, hgs.short, rfl, rfl⟩, hus.trace.trans hgs.trace.symm, hus.curTs.trans hgs.curTs.symm⟩

/-- The same for byte `k` of a batch of 254 or 255 over its own look-behind. -/
theorem lost_in_batch {bytes : List Byte} {k : Nat} {f g g' u : State} (hi : f.Inv) (hd : f.rd = f.wr)
    (hlen : bytes.length ≤ 255) (hf : LooksBehind bytes f) (hk : k < bytes.length) (h254 : k + 253 < bytes.length)
    (hg : Feeds f (bytes.take k) g) (hs : synchronizerReads g bytes[k])
    (hc : classify f.params (windowAt (receive bytes[k] g).buf g.wr) ≠ none) (hg' : Drains (quiet (receive bytes[k] g)) g')
    (hu : Drains (arrived (ringAfter bytes f) (wrAfter bytes f) g) u) :
    ShortPacket 6 g'.trace g'.curTs g' ∧ u.trace = g'.trace ∧ u.curTs = g'.curTs := by
  have hfed := hg.fedTo hi hd
  have hwr : g.wr = f.wr + BitVec.ofNat 8 k := by rw [hfed.wr, wrAfter, List.length_take_of_le hk.le]
  have hpos : (g.wr - f.wr).toNat = k := by bv_omega
  obtain ⟨c, hc⟩ := Option.ne_none_iff_exists'.mp hc
  rw [← hfed.params] at hc
  refine lost_of_signature hfed.inv hfed.drained hs hc (windowAt_receive hlen hf hk hfed).symm ?_ ?_ ?_ hg' hu
  · rw [read_writeRingFrom (by omega), hpos, List.getElem?_eq_getElem hk, Option.getD_some]
  · bv_omega
  · bv_omega

/-- A byte that FEED leaves unread where the synchronizer has found nothing on it leaves no packet in progress. -/
theorem ptype_of_lag {f h g : State} {b : Byte} (hi : f.Inv) (hd : f.rd = f.wr)
    (hnone : synchronizerReads f b → classify f.params (windowAt (receive b f).buf f.wr) = none)
    (hreads : ReadsMany (quiet (receive b f)) (quiet h)) (hp : h.ptype = .unknown) (hg : Drains (quiet h) g) :
    g.ptype = .unknown := by
  have hring := hreads.sameRing
  have hbuf : h.buf = (receive b f).buf := hring.buf
  have hP : h.params = f.params := hring.params
  obtain hdr | ⟨hrd, hsync⟩ | ⟨c, hk, -, -, -⟩ := absorbing_of_reads hi hd hreads
  · rw [readsMany_of_drained hdr hg.reads]
    exact hp
  · obtain he | ⟨y, hr, hyg⟩ := hg.reads.cases_head
    · rw [← he]; exact hp
    · have hc : classify h.params (window h) = none := by
        rw [window_eq, ← quiet_rd, hrd, hbuf, hP]
        exact hnone (hsync (.inl hp))
      obtain ⟨t, ht, rfl⟩ := hr.firstScan (hreads.inv (quiet_receive_inv b hi)).lengthBelow
      cases ht with
      | skipped _ _ =>
        have hdr : (quiet (polled (skipByte (quiet h)))).rd = (quiet (polled (skipByte (quiet h)))).wr := by
          show (quiet h).rd + 1 = h.wr
          rw [hrd]
          exact hring.wr.symm
        rw [readsMany_of_drained hdr hyg]
        exact hp
      | matched _ _ hc' => cases hc.symm.trans hc'
      | stored _ hk => cases hp.symm.trans hk
      | ended _ _ hk => cases hp.symm.trans hk
  · rw [quiet_ptype, hp] at hk
    cases hk

/-- One byte fed to a drained state. -/
theorem readsMany_of_feed_one {s h : State} {b : Byte} (hi : s.Inv) (hd : s.drained) (hfeed : feed [b] s = .next h) :
    ReadsMany (quiet (receive b s)) (quiet h) := by
  obtain ⟨h', hrun, hcall⟩ := pollAll_of_idle (x := receive b s) hd.1 (receive_inv b hi)
  rw [feed, exec_rxb] at hfeed
  dsimp only at hfeed
  rw [hrun] at hfeed
  cases hfeed
  exact hcall.reads

/-- A byte that comes into a packet just begun reports nothing. -/
theorem ShortPacket.receive {g v : State} {b : Byte} (h : ShortPacket 6 g.trace g.curTs g) (hd : g.rd = g.wr)
    (hv : Drains (quiet (Machine.receive b g)) v) : v.trace = g.trace ∧ v.curTs = g.curTs := by
  have hone : (g.wr + 1 - g.rd).toNat = 1 := by rw [hd]; bv_omega
  have hshort : ShortPacket 8 g.trace g.curTs (quiet (Machine.receive b g)) := by
    refine ⟨h.known, ?_, rfl, rfl⟩
    have hplen := h.short
    show g.plen.toNat + 2 * (g.wr + 1 - g.rd).toNat ≤ 8
    omega
  have hvs := hshort.reads hv.reads (by decide)
  exact ⟨hvs.trace, hvs.curTs⟩

/-- Where the synchronizer finds nothing on the first byte, it reads the second if FEED says so. -/
theorem synchronizerReads_of_follows {s h g : State} {b b' : Byte} (hi : s.Inv) (hd : s.drained)
    (hnone : synchronizerReads s b → classify s.params (windowAt (receive b s).buf s.wr) = none)
    (hfeed : feed [b] s = .next h) (hfol : Follows h g) (hs : synchronizerReads h b') : synchronizerReads g b' := by
  obtain rfl | hp := hfol.lag
  · exact hs
  · exact .inl (ptype_of_lag hi hd.2 hnone (readsMany_of_feed_one hi hd hfeed) hp hfol.drains)

/-- A signature on byte `k` of a batch over its own look-behind: the batch reports what its bytes up to `k` report, fed. -/
theorem trace_of_signature {bytes : List Byte} {k : Nat} {s v u : State} (hi : s.Inv) (hd : s.drained)
    (hlen : bytes.length ≤ 255) (hb : LooksBehind bytes (quiet s)) (h254 : k + 253 < bytes.length)
    (hsig : ¬ noSignatureAt bytes k s) (hv : Feeds (quiet s) (bytes.take (k + 1)) v)
    (hu : Drains (quiet (receiveAll bytes s)) u) : u.trace = v.trace ∧ u.curTs = v.curTs := by
  have hk : k < bytes.length := by omega
  have hqi := quiet_inv.mpr hi
  obtain ⟨h, g, hfeed, hg, hfol, hiff⟩ := noSignatureAt_iff hi hd hk
  rw [hiff, Classical.not_imp] at hsig
  obtain ⟨hs, hc⟩ := hsig
  obtain ⟨b, rest, rfl⟩ := List.exists_cons_of_length_pos (Nat.zero_lt_of_lt hk)
  have hpos : 0 < (b :: rest).length := Nat.succ_pos _
  rw [quiet_receiveAll_cons] at hu
  obtain rfl | rfl : k = 0 ∨ k = 1 := by omega
  · cases hfeed
    cases hg
    cases hv with
    | cons hv hnil =>
      cases hnil
      exact (lost_in_batch hqi hd.2 hlen hb hk h254 (.nil _) hs hc hv hu).2
  · obtain ⟨b', rest', rfl⟩ := List.exists_cons_of_length_pos (Nat.lt_of_succ_lt_succ hk)
    cases hg with
    | cons hg hnil =>
      cases hnil
      cases hv with
      | cons hg' hv =>
        obtain rfl := hg.unique hg'
        cases hv with
        | cons hv hnil =>
          cases hnil
          by_cases hfirst : synchronizerReads s b ∧ classify s.params (windowAt (receive b s).buf s.wr) ≠ none
          · obtain ⟨hs0, hc0⟩ := hfirst
            obtain ⟨hshort, htrace, hts⟩ :=
              lost_in_batch hqi hd.2 hlen hb hpos (by omega) (.nil _) hs0 hc0 hg hu
            obtain ⟨hvtrace, hvts⟩ := hshort.receive hg.drained hv
            exact ⟨htrace.trans hvtrace.symm, hts.trans hvts.symm⟩
          · have hnone : synchronizerReads s b → classify s.params (windowAt (receive b s).buf s.wr) = none :=
              fun hs0 => not_not.mp fun hc0 => hfirst ⟨hs0, hc0⟩
            have hwhole := windowAt_receive hlen hb hpos ((Feeds.nil (quiet s)).fedTo hqi hd.2)
            have hto := readsMany_arrived hqi hd.2 hg.reads
              (byteSeesSame_head hlen fun _ hs0 => ⟨hnone hs0, hwhole ▸ hnone hs0⟩)
            have hs1 := synchronizerReads_of_follows hi hd hnone hfeed hfol hs
            exact (lost_in_batch hqi hd.2 hlen hb hk h254 (.cons hg (.nil _)) hs1 hc hv (hto.drains hu)).2

/-- Settles O29: the batch drains to what the bytes fed lead to, from the look-behind over which its reads are theirs, and
otherwise loses its rest in the packet that the signature begins. -/
theorem bufferingIsTransparent : Obligations.BufferingIsTransparent := by
  intro bytes s hi hd hlen
  dsimp only
  have hi' := lookBehindOf_inv bytes hi
  have hd' := lookBehindOf_drained bytes hd
  have hb := looksBehind_lookBehindOf hlen s
  obtain ⟨⟨hr, -⟩, -⟩ := s.inv_iff.mp hi
  have htwo : bytes ≠ [] → 2 ≤ bytes.length + 1 := fun h => Nat.succ_le_succ (List.length_pos_of_ne_nil h)
  obtain ⟨t, ht, hft, htd, htq⟩ := runLines_feed hi hd (Nat.succ_pos _) htwo
  obtain ⟨t', ht', hft', -⟩ := runLines_feed hi' hd' (Nat.succ_pos _) htwo
  obtain ⟨u, hu, hdu⟩ := runLines_rx (bytes := bytes) hi hd
  have hdu' : Drains (quiet (receiveAll bytes (lookBehindOf bytes s))) u := by rwa [receiveAll_lookBehindOf hlen hr]
  refine ⟨t, t', u, ht, ht', hu, ⟨congrArg State.busy htq, htd⟩, ⟨congrArg State.busy hdu.quiet, hdu.drained⟩, fun h => ?_,
    fun h => ?_, fun k h254 hsig => ?_⟩
  · exact (hft.drains_batch hi hd.2 hlen (findsNone_of_both hi hd hlen h)).unique hdu
  · exact (hft'.drains_batch hi' hd'.2 hlen (findsNone_of_looksBehind hi' hd' hlen hb h)).unique hdu'
  · obtain ⟨v, hv, hfv, -⟩ := runLines_feed (bytes := bytes.take (k + 1)) (m := 2) hi' hd' Nat.two_pos fun _ => le_refl _
    obtain ⟨htrace, hts⟩ := trace_of_signature hi' hd' hlen hb h254 hsig hfv hdu'
    exact ⟨v, hv, htrace, hts, by rw [htrace]⟩

end Sys2Proof.Machine
end

section
/-! PROOFS. The two decoders and the encoder agree (30_encoding R61 to R64, R67 to R69): event words by their two fields,
windows by their four bytes. -/

namespace Sys2Proof

/-! ## Event words -/

/-- Three bits have eight values (30_encoding R63). -/
theorem op_cases (op : BitVec 3) :
    op = 0 ∨ op = 1 ∨ op = 2 ∨ op = 3 ∨ op = 4 ∨ op = 5 ∨ op = 6 ∨ op = 7 := by
  revert op; decide

theorem decodeEvent_eventWord (op : BitVec 3) (arg : Byte) :
    decodeEvent (eventWord op arg) =
      if op = 0 then .scan else if op = 1 then .poll else if op = 2 then .cfg arg else if op = 3 then .tick
      else if op = 4 then .pps else if op = 5 then .rxb arg else if op = 6 then .reserved6 else .reset := by
  rw [decodeEvent, opField_eventWord, argField_eventWord]

/-- The mask 0x700 of the event rows keeps `op` and clears `arg` (30_encoding R61, R62). -/
theorem eventWord_and_rowMask (op : BitVec 3) (arg : Byte) : eventWord op arg &&& 0x700 = eventWord op 0 := by
  have hmask : (0x700 : EventWord) = eventWord (BitVec.allOnes 3) 0#8 := by decide
  rw [hmask]
  unfold eventWord
  rw [BitVec.cast_eq, BitVec.cast_eq, BitVec.cast_eq, BitVec.and_append, BitVec.and_allOnes, BitVec.and_zero]
  rfl

theorem setWidth_eventWord (op : BitVec 3) (arg : Byte) : (eventWord op arg).setWidth 8 = arg := by
  unfold eventWord
  rw [BitVec.cast_eq]
  exact BitVec.setWidth_append_eq_right

/-- A word in the row of `op` is that operation's, with the word's low byte as its operand (30_encoding R62, R64). -/
theorem decodeEvent_of_row {w : EventWord} {op : BitVec 3} (h : w &&& 0x700 = eventWord op 0) :
    decodeEvent w = decodeEvent (eventWord op (w.setWidth 8)) := by
  rw [← eventWord_fields w, eventWord_and_rowMask] at h
  have hop : opField w = op := by simpa using congrArg opField h
  rw [← eventWord_fields w, hop, setWidth_eventWord]

/-- Each operation has its row, whatever its operand byte (30_encoding R62). -/
theorem exists_eventRow (op : BitVec 3) (arg : Byte) :
    ∃ r ∈ eventRows,
      eventWord op arg &&& r.mask = r.value ∧ (decodeEvent (eventWord op arg)).mnemonic = r.mnemonic := by
  have rows : ∀ op : BitVec 3, ∃ r ∈ eventRows,
      r.mask = 0x700 ∧ r.value = eventWord op 0 ∧ (decodeEvent (eventWord op 0)).mnemonic = r.mnemonic := by decide
  have hname : (decodeEvent (eventWord op arg)).mnemonic = (decodeEvent (eventWord op 0)).mnemonic := by
    rw [decodeEvent_eventWord, decodeEvent_eventWord]
    obtain rfl | rfl | rfl | rfl | rfl | rfl | rfl | rfl := op_cases op <;> rfl
  obtain ⟨r, hr, hmask, hvalue, hmnemonic⟩ := rows op
  exact ⟨r, hr, by rw [hmask, hvalue, eventWord_and_rowMask], hname.trans hmnemonic⟩

/-- The encoder writes back an event word's `op`, and its `arg` where the operation uses it (30_encoding R64). -/
theorem encode_decodeEvent (P : Params) (op : BitVec 3) (arg : Byte) :
    encode P (decodeEvent (eventWord op arg)) = .ev (eventWord op (if op = 2 ∨ op = 5 then arg else 0)) := by
  rw [decodeEvent_eventWord]
  obtain rfl | rfl | rfl | rfl | rfl | rfl | rfl | rfl := op_cases op <;> rfl

/-! ## Windows -/

/-- A window's decoding by its class. -/
theorem decodeWindow_of_classify {P : Params} {w : Window} {c : PacketClass} (h : classify P w = some c) :
    decodeWindow P w = .ok (signatureOf c (w.byte 3)) := by
  rw [decodeWindow, h]

/-- The encoding of a signature row selects its own class, unless an earlier row hides it (30_encoding R68). -/
theorem decode_encode_signatureOf {P : Params} {c : PacketClass} {w3 : Byte} (h : (signatureOf c w3).WellFormed P) :
    decode P (encode P (signatureOf c w3)) = .ok (signatureOf c w3) := by
  cases c with
  | magTime =>
    have hc : classify P (Window.ofBytes w3 P.mgSync P.mgSync P.mgTTime) = some .magTime := by simp [classify]
    exact (decodeWindow_of_classify hc).trans (by rw [Window.byte_three_ofBytes])
  | magStatus =>
    have hne : P.mgTStatus ≠ P.mgTTime := h
    have hc : classify P (Window.ofBytes w3 P.mgSync P.mgSync P.mgTStatus) = some .magStatus := by simp [classify, hne]
    exact (decodeWindow_of_classify hc).trans (by rw [Window.byte_three_ofBytes])
  | trimble =>
    have hfree : ¬ (P.dle = P.mgSync ∧ P.tbId1 = P.mgSync ∧ (P.tbId2 = P.mgTTime ∨ P.tbId2 = P.mgTStatus)) := h
    have htime : ¬ (P.dle = P.mgSync ∧ P.tbId1 = P.mgSync ∧ P.tbId2 = P.mgTTime) :=
      fun ⟨h2, h1, h0⟩ => hfree ⟨h2, h1, .inl h0⟩
    have hstatus : ¬ (P.dle = P.mgSync ∧ P.tbId1 = P.mgSync ∧ P.tbId2 = P.mgTStatus) :=
      fun ⟨h2, h1, h0⟩ => hfree ⟨h2, h1, .inr h0⟩
    have hc : classify P (Window.ofBytes P.etx P.dle P.tbId1 P.tbId2) = some .trimble := by
      simp [classify, htime, hstatus]
    exact decodeWindow_of_classify hc

/-- Every instruction is an event word's or a signature row's. -/
theorem decode_encode {P : Params} {i : Instr} (h : i.WellFormed P) : decode P (encode P i) = .ok i := by
  have event : ∀ {op : BitVec 3} {arg : Byte}, encode P i = .ev (eventWord op arg) →
      decodeEvent (eventWord op arg) = i → decode P (encode P i) = .ok i := by
    intro op arg henc hdec
    rw [henc]
    exact congrArg Except.ok hdec
  cases i with
  | scan => exact event rfl (decodeEvent_eventWord 0 0)
  | poll => exact event rfl (decodeEvent_eventWord 1 0)
  | cfg n => exact event rfl (decodeEvent_eventWord 2 n)
  | tick => exact event rfl (decodeEvent_eventWord 3 0)
  | pps => exact event rfl (decodeEvent_eventWord 4 0)
  | rxb b => exact event rfl (decodeEvent_eventWord 5 b)
  | reserved6 => exact event rfl (decodeEvent_eventWord 6 0)
  | reset => exact event rfl (decodeEvent_eventWord 7 0)
  | magTime w3 => exact decode_encode_signatureOf (c := .magTime) h
  | magStatus w3 => exact decode_encode_signatureOf (c := .magStatus) h
  | trimble => exact decode_encode_signatureOf (c := .trimble) (w3 := 0) h

/-- A signature that a window decodes to is well-formed and encodes as that window (30_encoding R68). -/
theorem encode_decodeWindow {P : Params} {w : Window} {i : Instr} (h : decodeWindow P w = .ok i) :
    i.WellFormed P ∧ encode P i = .sig w := by
  obtain ⟨c, hc, rfl⟩ := decodeWindow_eq_ok h
  have hbytes := classify_eq_some hc
  have hw := congrArg Code.sig (Window.ofBytes_byte w)
  cases c with
  | magTime =>
    obtain ⟨h2, h1, h0⟩ := hbytes
    exact ⟨trivial, by rwa [h2, h1, h0] at hw⟩
  | magStatus =>
    obtain ⟨h2, h1, h0, hne⟩ := hbytes
    exact ⟨hne, by rwa [h2, h1, h0] at hw⟩
  | trimble =>
    obtain ⟨h3, h2, h1, h0, hfree⟩ := hbytes
    exact ⟨hfree, by rwa [h3, h2, h1, h0] at hw⟩

/-! ## The rows of the table -/

theorem Window.byte_and (v w : Window) (k : Fin 4) : (v &&& w).byte k = v.byte k &&& w.byte k :=
  BitVec.extractLsb'_and

/-- The mask of the two Magellan rows clears the window's oldest byte (30_encoding R68). -/
theorem Window.and_magellanMask (w : Window) :
    w &&& 0x00FFFFFF = Window.ofBytes 0#8 (w.byte 2) (w.byte 1) (w.byte 0) := by
  have hmask : (0x00FFFFFF : Window) = Window.ofBytes 0#8 (BitVec.allOnes 8) (BitVec.allOnes 8) (BitVec.allOnes 8) := by
    decide
  rw [hmask]
  apply Window.ext_byte <;> simp only [Window.byte_and, Window.byte_three_ofBytes, Window.byte_two_ofBytes,
    Window.byte_one_ofBytes, Window.byte_zero_ofBytes, BitVec.and_zero, BitVec.and_allOnes]

theorem Window.ofBytes_inj {a3 a2 a1 a0 b3 b2 b1 b0 : Byte} :
    Window.ofBytes a3 a2 a1 a0 = Window.ofBytes b3 b2 b1 b0 ↔ a3 = b3 ∧ a2 = b2 ∧ a1 = b1 ∧ a0 = b0 := by
  refine ⟨fun h => ⟨?_, ?_, ?_, ?_⟩, fun ⟨h3, h2, h1, h0⟩ => by rw [h3, h2, h1, h0]⟩
  · simpa using congrArg (Window.byte · 3) h
  · simpa using congrArg (Window.byte · 2) h
  · simpa using congrArg (Window.byte · 1) h
  · simpa using congrArg (Window.byte · 0) h

theorem Window.and_magellanMask_eq_iff (w : Window) (b2 b1 b0 : Byte) :
    w &&& 0x00FFFFFF = Window.ofBytes 0#8 b2 b1 b0 ↔ w.byte 2 = b2 ∧ w.byte 1 = b1 ∧ w.byte 0 = b0 := by
  rw [Window.and_magellanMask, Window.ofBytes_inj]
  exact and_iff_right rfl

theorem Window.eq_ofBytes_iff (w : Window) (b3 b2 b1 b0 : Byte) :
    w = Window.ofBytes b3 b2 b1 b0 ↔ w.byte 3 = b3 ∧ w.byte 2 = b2 ∧ w.byte 1 = b1 ∧ w.byte 0 = b0 := by
  rw [← Window.ofBytes_inj, Window.ofBytes_byte]

/-- Two rows that one word matches agree in the bits that both test. -/
theorem values_agree_of_match {n : Nat} {w m v m' v' : BitVec n} (h : w &&& m = v) (h' : w &&& m' = v') :
    v &&& m' = v' &&& m := by
  rw [← h, ← h', BitVec.and_assoc, BitVec.and_assoc, BitVec.and_comm m m']

/-! ## The statements -/

/-- Settles O1. -/
theorem decodeOfEncodeIsInstruction : Obligations.DecodeOfEncodeIsInstruction := fun _ _ h => decode_encode h

/-- Settles O2. -/
theorem encodeOfDecodeIsWord : Obligations.EncodeOfDecodeIsWord := by
  refine ⟨fun P w i h => encode_decodeWindow h, fun P w => ?_⟩
  rw [← eventWord_fields w, encode_decodeEvent, eventWord_and_rowMask]
  obtain h | h | h | h | h | h | h | h := op_cases (opField w) <;> rw [h] <;> rfl

/-- Settles O3, row by row. -/
theorem eventWordsDecodeToTheirRow : Obligations.EventWordsDecodeToTheirRow := by
  refine ⟨fun w => ?_, fun w => ?_, fun s => rfl⟩
  · have row : ∀ (op : BitVec 3) {i : Instr}, decodeEvent (eventWord op (w.setWidth 8)) = i →
        w &&& 0x700 = eventWord op 0 → decodeEvent w = i := fun op i hi h => (decodeEvent_of_row h).trans hi
    have words := decodeEvent_eventWord (arg := w.setWidth 8)
    exact ⟨row 0 (words 0), row 1 (words 1), row 2 (words 2), row 3 (words 3), row 4 (words 4), row 5 (words 5),
      row 6 (words 6), row 7 (words 7)⟩
  · rw [← eventWord_fields w]
    exact exists_eventRow _ _

/-- Settles O4. -/
theorem operandByteIsUsedOrIgnored : Obligations.OperandByteIsUsedOrIgnored := by
  refine ⟨fun b => ⟨decodeEvent_eventWord 2 b, decodeEvent_eventWord 5 b⟩, fun op b c h2 h5 => ?_,
    fun P i w h hcfg hrxb => ?_⟩
  · simp only [decodeEvent_eventWord, if_neg h2, if_neg h5]
  · cases i with
    | cfg n => exact absurd rfl (hcfg n)
    | rxb b => exact absurd rfl (hrxb b)
    | _ => cases h <;> exact argField_eventWord _ 0

/-- Settles O5: each word is written out and decoded. -/
theorem writtenWordsDecode : Obligations.WrittenWordsDecode := by
  unfold Obligations.WrittenWordsDecode
  decide

/-- Settles O6: the masks and matches of the rows written as bytes. -/
theorem classifierFollowsTheRows : Obligations.ClassifierFollowsTheRows := by
  refine ⟨fun w => ?_, fun w => ?_, fun c => by cases c <;> rfl, rfl, rfl, rfl⟩
  · have hall : w &&& 0xFFFFFFFF = w := BitVec.and_allOnes
    rw [hall]
    exact if_congr (Window.and_magellanMask_eq_iff w 0x24 0x24 0x41).symm rfl
      (if_congr (Window.and_magellanMask_eq_iff w 0x24 0x24 0x48).symm rfl
        (if_congr (Window.eq_ofBytes_iff w 0x03 0x10 0x8F 0xAB).symm rfl rfl))
  · have hdiffer : signatureRows.Pairwise fun r q => r.value &&& q.mask ≠ q.value &&& r.mask := by decide
    exact hdiffer.imp fun hne ⟨hr, hq⟩ => hne (values_agree_of_match hr hq)

end Sys2Proof
end

section
/-! PROOFS. The signature rows as instructions (30_encoding R68, 41_synchronizer R102, R104): what SCAN recognises and what
each row performs. -/

namespace Sys2Proof.Machine

/-- A signature row performs the match of its class where the synchronizer runs, whatever its untested byte. -/
theorem exec_signatureOf (c : PacketClass) (w3 : Byte) (s : State) :
    exec (signatureOf c w3) s = .next (if synchronizing s then recognise c s else s) := by
  cases c <;> rfl

theorem syncStep_of_classify {c : PacketClass} {s : State} (h : classify s.params (window s) = some c) :
    syncStep s = recognise c s := by
  rw [syncStep, h]

/-- The match as one update, the rewind and the skip notice written out (41_synchronizer R104, R105). -/
theorem recognise_update (c : PacketClass) (s : State) :
    recognise c s =
      { s with rd := s.rd - 2, skip := 0, ptype := .known c, plen := 0, esc := false,
               trace := s.trace ++ if s.skip.toNat > s.params.skipNoticeMin then [.dbgSkip s.skip] else [] } := by
  have hrewind : rewind c = 2 := by cases c <;> rfl
  rw [recognise_eq, hrewind]
  simp only [skipNoticed, decide_eq_true_eq]

/-- Settles O23: SCAN and the signature's own row both perform the match of the class decoded. -/
theorem scanRunsTheSignatureItDecodes : Obligations.ScanRunsTheSignatureItDecodes := by
  intro s i hs hdec
  obtain ⟨c, hc, rfl⟩ := decodeWindow_eq_ok hdec
  rw [execScan_of_synchronizing hs, syncStep_of_classify hc, exec_signatureOf, if_pos hs]

/-- Settles O24. -/
theorem signaturesRecogniseTheirClass : Obligations.SignaturesRecogniseTheirClass := by
  intro w3 s
  dsimp only
  have runs : ∀ (c : PacketClass) (b : Byte), synchronizing s → exec (signatureOf c b) s = .next (recognise c s) :=
    fun c b h => by rw [exec_signatureOf, if_pos h]
  have rests : ∀ (c : PacketClass) (b : Byte), ¬ synchronizing s → exec (signatureOf c b) s = .next s :=
    fun c b h => by rw [exec_signatureOf, if_neg h]
  refine ⟨fun h => ?_, fun h => ⟨rests .magTime w3 h, rests .magStatus w3 h, rests .trimble 0 h⟩⟩
  rw [← recognise_update, ← recognise_update, ← recognise_update]
  exact ⟨runs .magTime w3 h, runs .magStatus w3 h, runs .trimble 0 h⟩

end Sys2Proof.Machine
end

section
/-! PROOFS. The unstuffing scanner inverts stuffing (30_encoding R70, 42_trimble_decoder R116): one payload byte at a time,
in one SCAN step, or two where it is a doubled DLE. -/

namespace Sys2Proof.Machine

/-! ## Bytes in the scratch and in the ring -/

/-- Bytes stored from an address on leave the rest alone. -/
theorem Memory.read_writeBytes_of_ne {a : Nat} (bytes : List Byte) : ∀ {m : Memory} {n : Nat},
    a < n ∨ n + bytes.length ≤ a → (m.writeBytes n bytes).read a = m.read a := by
  induction bytes with
  | nil => exact fun _ => rfl
  | cons b rest ih =>
    intro m n h
    rw [List.length_cons] at h
    exact (ih (by omega)).trans (Memory.read_write_of_ne m b (by omega))

/-- Bytes stored from an address on are read back. -/
theorem Memory.read_writeBytes_getElem (bytes : List Byte) : ∀ {m : Memory} {n k : Nat} (h : k < bytes.length),
    (m.writeBytes n bytes).read (n + k) = bytes[k] := by
  induction bytes with
  | nil => exact fun h => absurd h (Nat.not_lt_zero _)
  | cons b rest ih =>
    intro m n k h
    cases k with
    | zero => exact (Memory.read_writeBytes_of_ne rest (.inl (Nat.lt_succ_self n))).trans (Memory.read_write_self m n b)
    | succ k =>
      have hk : n + (k + 1) = n + 1 + k := by omega
      rw [hk]
      exact ih (Nat.lt_of_succ_lt_succ h)

theorem ringHolds_append {s : State} {i : Byte} {xs ys : List Byte} (h : ringHolds s i (xs ++ ys)) :
    ringHolds s i xs ∧ ringHolds s (i + BitVec.ofNat 8 xs.length) ys := by
  refine ⟨fun k hk => ?_, fun k hk => ?_⟩
  · have hk' : k < (xs ++ ys).length := by rw [List.length_append]; omega
    rw [h k hk', List.getElem_append_left hk]
  · have hk' : xs.length + k < (xs ++ ys).length := by rw [List.length_append]; omega
    rw [BitVec.add_assoc, ← BitVec.ofNat_add, h _ hk', List.getElem_append_right (Nat.le_add_right _ _)]
    simp only [Nat.add_sub_cancel_left]

theorem stuffed_dle (dle : Byte) : stuffed dle [dle] = [dle, dle] := by simp [stuffed]

theorem stuffed_of_ne {dle b : Byte} (h : b ≠ dle) : stuffed dle [b] = [b] := by simp [stuffed, h]

theorem stuffed_cons (dle b : Byte) (rest : List Byte) :
    stuffed dle (b :: rest) = stuffed dle [b] ++ stuffed dle rest :=
  List.flatMap_append (xs := [b])

theorem runOps_cons {i : Instr} {rest : List Instr} {s t : State} (h : exec i s = .next t) :
    runOps (i :: rest) s = runOps rest t := by
  rw [runOps, h]

theorem runOps_append {xs ys : List Instr} {s t : State} (h : runOps xs s = .next t) :
    runOps (xs ++ ys) s = runOps ys t := by
  induction xs generalizing s with
  | nil => cases h; rfl
  | cons i rest ih =>
    rw [runOps] at h
    cases hi : exec i s with
    | next u => rw [hi] at h; exact (runOps_cons hi).trans (ih h)
    | fault f => rw [hi] at h; cases h
    | refused r => rw [hi] at h; cases h

/-! ## The scanner -/

/-- A poll call inside a Trimble frame, no DLE held, these bytes next in its slice. -/
structure Unstuffing (s : State) (sent : List Byte) : Prop where
  busy : s.busy = true
  ptype : s.ptype = .known .trimble
  esc : s.esc = false
  holds : ringHolds s s.rd sent
  unread : sent.length ≤ (s.snap - s.rd).toNat

/-- The state after a payload has been stored, for which `sent` bytes were consumed. -/
def storedPayload (sent : Nat) (payload : List Byte) (s : State) : State :=
  { s with rd := s.rd + BitVec.ofNat 8 sent, plen := s.plen + BitVec.ofNat 5 payload.length,
           pkt := s.pkt.writeBytes s.plen.toNat payload }

theorem storedPayload_plen {sent : Nat} {payload : List Byte} {s : State} (h : s.plen.toNat + payload.length < tbLen) :
    (storedPayload sent payload s).plen.toNat = s.plen.toNat + payload.length := by
  simp only [tbLen] at h
  show (s.plen + BitVec.ofNat 5 payload.length).toNat = _
  rw [BitVec.toNat_add, BitVec.toNat_ofNat]
  omega

theorem storedPayload_storedPayload {m n : Nat} {b : Byte} {rest : List Byte} {s : State} (h : s.plen.toNat + 1 < tbLen) :
    storedPayload n rest (storedPayload m [b] s) = storedPayload (m + n) (b :: rest) s := by
  have hplen : (storedPayload m [b] s).plen.toNat = s.plen.toNat + 1 := storedPayload_plen h
  have hlen : s.plen + BitVec.ofNat 5 [b].length + BitVec.ofNat 5 rest.length =
      s.plen + BitVec.ofNat 5 (b :: rest).length := by
    rw [BitVec.add_assoc, ← BitVec.ofNat_add, List.length_singleton, List.length_cons, Nat.add_comm 1]
  have hrd : s.rd + BitVec.ofNat 8 m + BitVec.ofNat 8 n = s.rd + BitVec.ofNat 8 (m + n) := by
    rw [BitVec.add_assoc, ← BitVec.ofNat_add]
  unfold storedPayload at hplen ⊢
  simp only [hplen, hlen, hrd, Memory.writeBytes]

/-- After the first bytes sent have been stored, the rest are next. -/
theorem Unstuffing.append {s : State} {xs ys payload : List Byte} (h : Unstuffing s (xs ++ ys)) :
    Unstuffing s xs ∧ Unstuffing (storedPayload xs.length payload s) ys := by
  obtain ⟨hxs, hys⟩ := ringHolds_append h.holds
  have hu := h.unread
  rw [List.length_append] at hu
  have hrest : ys.length ≤ (s.snap - (s.rd + BitVec.ofNat 8 xs.length)).toNat := by bv_omega
  exact ⟨⟨h.busy, h.ptype, h.esc, hxs, by omega⟩, ⟨h.busy, h.ptype, h.esc, hys, hrest⟩⟩

theorem Unstuffing.decoding {s : State} {b : Byte} {rest : List Byte} (h : Unstuffing s (b :: rest)) :
    decoding .trimble s := by
  refine ⟨h.busy, fun hr => ?_, h.ptype⟩
  have hu := h.unread
  rw [hr, List.length_cons, BitVec.sub_self] at hu
  exact absurd hu (Nat.not_succ_le_zero _)

theorem Unstuffing.head {s : State} {b : Byte} {rest : List Byte} (h : Unstuffing s (b :: rest)) :
    s.buf.read s.rd.toNat = b := by
  simpa [readRing] using h.holds 0 (Nat.succ_pos _)

/-- A decoder step that leaves the frame short of its length is its move. -/
theorem exec_scan_of_short {c : PacketClass} {s : State} (hd : decoding c s) {d : DecoderMove} (hmove : decoderMove c s = d)
    (h : s.plen.toNat + d.stores.length < frameLen c) : exec .scan s = .next (d.apply s) := by
  have hn : s.plen.toNat < frameLen c := by omega
  rw [exec_scan_decoding hd hn, afterMove_plen hn, hmove, if_neg (Nat.ne_of_lt h), afterMove, hmove]

/-- The state after the first DLE of a pair. -/
def holdingDle (s : State) : State := { s with rd := s.rd + 1, esc := true }

theorem exec_scan_plain {s : State} {b : Byte} (hn : s.plen.toNat + 1 < tbLen) (hb : b ≠ s.params.dle)
    (h : Unstuffing s [b]) : exec .scan s = .next (storedPayload 1 [b] s) := by
  have hmove : decoderMove .trimble s = ⟨true, false, [b]⟩ := by simp [decoderMove, h.esc, h.head, hb]
  rw [exec_scan_of_short h.decoding hmove hn]
  simp [DecoderMove.apply, storedPayload, h.esc]

theorem exec_scan_first_dle {s : State} {rest : List Byte} (hn : s.plen.toNat + 1 < tbLen)
    (h : Unstuffing s (s.params.dle :: rest)) : exec .scan s = .next (holdingDle s) := by
  have hmove : decoderMove .trimble s = ⟨true, true, []⟩ := by simp [decoderMove, h.esc, h.head]
  rw [exec_scan_of_short h.decoding hmove (Nat.lt_of_succ_lt hn)]
  simp [DecoderMove.apply, holdingDle, Memory.writeBytes]

theorem exec_scan_second_dle {s : State} (hn : s.plen.toNat + 1 < tbLen)
    (h : Unstuffing s [s.params.dle, s.params.dle]) :
    exec .scan (holdingDle s) = .next (storedPayload 2 [s.params.dle] s) := by
  obtain ⟨-, hnext⟩ := Unstuffing.append (xs := [s.params.dle]) (payload := []) h
  have hread : s.buf.read (s.rd + 1).toNat = s.params.dle := hnext.head
  have hmove : decoderMove .trimble (holdingDle s) = ⟨true, false, [s.params.dle]⟩ := by
    simp only [decoderMove, holdingDle, hread, if_true]
  have hrd : s.rd + 1 + 1 = s.rd + BitVec.ofNat 8 2 := BitVec.add_assoc _ _ _
  rw [exec_scan_of_short (s := holdingDle s) hnext.decoding hmove hn]
  simp only [DecoderMove.apply, holdingDle, storedPayload, if_true, hrd, h.esc]

/-- One payload byte: stored as it is, or held and then stored once where it is a doubled DLE. -/
theorem runOps_stuffed_byte {s : State} {b : Byte} (hn : s.plen.toNat + 1 < tbLen)
    (h : Unstuffing s (stuffed s.params.dle [b])) :
    runOps (List.replicate (stuffed s.params.dle [b]).length .scan) s =
      .next (storedPayload (stuffed s.params.dle [b]).length [b] s) := by
  by_cases hb : b = s.params.dle
  · subst hb
    rw [stuffed_dle] at h ⊢
    exact (runOps_cons (exec_scan_first_dle hn h)).trans (runOps_cons (exec_scan_second_dle hn h))
  · rw [stuffed_of_ne hb] at h ⊢
    exact runOps_cons (exec_scan_plain hn hb h)

/-- A stuffed payload, byte by byte. -/
theorem runOps_stuffed {payload : List Byte} : ∀ {s : State}, s.plen.toNat + payload.length < tbLen →
    Unstuffing s (stuffed s.params.dle payload) →
    runOps (List.replicate (stuffed s.params.dle payload).length .scan) s =
      .next (storedPayload (stuffed s.params.dle payload).length payload s) := by
  induction payload with
  | nil =>
    intro s _ _
    simp [stuffed, runOps, storedPayload, Memory.writeBytes]
  | cons b rest ih =>
    intro s hn h
    rw [List.length_cons] at hn
    have hn1 : s.plen.toNat + 1 < tbLen := by omega
    rw [stuffed_cons] at h ⊢
    obtain ⟨hhead, htail⟩ := h.append (payload := [b])
    rw [List.length_append, List.replicate_add, runOps_append (runOps_stuffed_byte hn1 hhead),
      ← storedPayload_storedPayload hn1]
    have hplen : (storedPayload (stuffed s.params.dle [b]).length [b] s).plen.toNat = s.plen.toNat + 1 :=
      storedPayload_plen hn1
    exact ih (by rw [hplen]; omega) htail

/-- Settles O31. -/
theorem unstuffingInvertsStuffing : Obligations.UnstuffingInvertsStuffing := by
  intro payload s hbusy hptype hesc hn hholds hunread
  refine ⟨_, runOps_stuffed hn ⟨hbusy, hptype, hesc, hholds, hunread⟩, storedPayload_plen hn, fun k hk => ?_, fun a ha => ?_,
    rfl⟩
  · exact Memory.read_writeBytes_getElem payload hk
  · exact Memory.read_writeBytes_of_ne payload ha

end Sys2Proof.Machine
end

section
/-! PROOFS. The last byte of a Magellan packet (43_magellan_decoder R131 to R135, 30_encoding R75, R76): the checksum over
the bytes stored before it, what a wrong one reports, and what a valid time packet gives. -/

namespace Sys2Proof.Machine

/-! ## The XOR of a range -/

/-- A change of one byte in the range is a change of the XOR by the same bits. -/
theorem xorFrom_flip {m : Memory} {k : Nat} (flip : Byte) (n : Nat) : ∀ a, a ≤ k → k < a + n →
    xorFrom (m.write k (m.read k ^^^ flip)) a n = xorFrom m a n ^^^ flip := by
  induction n with
  | zero => intro a hle hlt; omega
  | succ n ih =>
    intro a hle hlt
    rw [xorFrom, xorFrom]
    by_cases hk : a = k
    · subst hk
      rw [Memory.read_write_self, xorFrom_write_of_not_mem m _ a n (a + 1) (.inl (Nat.lt_succ_self a)), BitVec.xor_assoc,
        BitVec.xor_assoc, BitVec.xor_comm flip]
    · rw [Memory.read_write_of_ne m _ hk, ih (a + 1) (by omega) (by omega), BitVec.xor_assoc]

theorem xor_flip_ne {flip : Byte} (h : flip ≠ 0) (b : Byte) : b ^^^ flip ≠ b := fun he => h (by simpa using he)

/-- With one byte of the range or the byte after it changed, the XOR of the range and the byte after it differ. -/
theorem xorFrom_flip_ne {m : Memory} {a n e k : Nat} {flip : Byte} (hend : a + n = e) (hpass : xorFrom m a n = m.read e)
    (hle : a ≤ k) (hlt : k ≤ e) (hflip : flip ≠ 0) :
    xorFrom (m.write k (m.read k ^^^ flip)) a n ≠ (m.write k (m.read k ^^^ flip)).read e := by
  subst hend
  by_cases hk : k = a + n
  · subst hk
    rw [xorFrom_write_of_not_mem m _ _ _ _ (.inr (le_refl _)), Memory.read_write_self, hpass]
    exact (xor_flip_ne hflip _).symm
  · rw [xorFrom_flip flip n a hle (by omega), Memory.read_write_of_ne m _ (Ne.symm hk), ← hpass]
    exact xor_flip_ne hflip _

/-! ## Finishing a packet -/

theorem mgFinish_of_bad_checksum {c : PacketClass} {s : State} (hlf : s.pkt.read (frameLen c - 1) = s.params.mgLf)
    (hsum : checksum s (frameLen c) ≠ s.pkt.read (frameLen c - 2)) :
    mgFinish c s =
      finishedRejected (.dbgChecksum (checksum s (frameLen c)) (s.pkt.read (frameLen c - 2)) (pktBytes s (frameLen c))) s := by
  unfold mgFinish
  dsimp only
  rw [if_neg (not_not.mpr hlf), if_pos hsum, endPoll_pktReset_emit]

theorem mgFinish_of_time {ts : Timestamp} {s : State} (hlf : s.pkt.read (frameLen .magTime - 1) = s.params.mgLf)
    (hsum : checksum s (frameLen .magTime) = s.pkt.read (frameLen .magTime - 2)) (hts : magellanTimestamp s = some ts) :
    mgFinish .magTime s = finishedAccepted ts s := by
  have haccept : mgTimeAccept s = acceptTs ts s := by rw [mgTimeAccept, hts]
  unfold mgFinish
  dsimp only
  rw [if_neg (not_not.mpr hlf), if_neg (not_not.mpr hsum), if_neg (by decide), haccept, endPoll_pktReset_acceptTs]

/-! ## The step of the last byte -/

/-- The state with the byte under RD consumed and stored. -/
def storedByte (s : State) : State :=
  { s with rd := s.rd + 1, pkt := s.pkt.write s.plen.toNat (s.buf.read s.rd.toNat), plen := s.plen + 1 }

theorem exec_scan_last_byte {c : PacketClass} {s : State} (hc : c ≠ .trimble) (hd : decoding c s)
    (hn : s.plen.toNat + 1 = frameLen c) : exec .scan s = .next (mgFinish c (storedByte s)) := by
  have hcap : s.plen.toNat < pktCap := lt_of_lt_of_le (Nat.lt_of_succ_le hn.le) (frameLen_le c)
  have hstep : exec .scan s = magellanStep c s := by
    rw [execScan_of_decoding hd]
    cases c with
    | magTime => rfl
    | magStatus => rfl
    | trimble => exact absurd rfl hc
  rw [hstep, magellanStep_eq hcap]
  exact congrArg Host.Outcome.next (if_pos hn)

theorem storedByte_last {c : PacketClass} {s : State} (hn : s.plen.toNat + 1 = frameLen c) :
    (storedByte s).pkt.read (frameLen c - 1) = s.buf.read s.rd.toNat := by
  rw [← hn]
  exact Memory.read_write_self _ _ _

/-- The byte that carries the checksum was stored before the last one. -/
theorem storedByte_expected {c : PacketClass} {s : State} (hn : s.plen.toNat + 1 = frameLen c) :
    (storedByte s).pkt.read (frameLen c - 2) = s.pkt.read (frameLen c - 2) := by
  have hlen : 2 ≤ frameLen c := by cases c <;> decide
  exact Memory.read_write_of_ne _ _ (by omega)

/-- The checksum does not see the last byte. -/
theorem storedByte_checksum {c : PacketClass} {s : State} (hn : s.plen.toNat + 1 = frameLen c) :
    checksum (storedByte s) (frameLen c) =
      xorFrom s.pkt s.params.mgCsumStart (frameLen c - 2 - s.params.mgCsumStart) := by
  rw [checksum_eq_xorFrom]
  exact xorFrom_write_of_not_mem _ _ _ _ _ (by omega)

theorem storedByte_pktBytes {c : PacketClass} {s : State} (hn : s.plen.toNat + 1 = frameLen c) :
    pktBytes (storedByte s) (frameLen c) =
      (List.range s.plen.toNat).map s.pkt.read ++ [s.buf.read s.rd.toNat] := by
  rw [← hn]
  exact map_read_write_last _ _ _

/-! ## Errors -/

/-- Settles O38. -/
theorem magellanChecksumIsChecked : Obligations.MagellanChecksumIsChecked := by
  intro c s hc hd hn hlf
  dsimp only
  intro hsum
  rw [exec_scan_last_byte hc hd hn, mgFinish_of_bad_checksum, storedByte_checksum hn, storedByte_expected hn,
    storedByte_pktBytes hn, hlf]
  · rw [← hlf]; rfl
  · exact (storedByte_last hn).trans hlf
  · rwa [storedByte_checksum hn, storedByte_expected hn]

/-- Settles O39: the changed byte moves the checksum computed or the checksum expected, and not the other. -/
theorem byteErrorsAreDetected : Obligations.ByteErrorsAreDetected := by
  intro c s k flip hc hd hn hlf hpass hle hlt hflip
  have hend : s.params.mgCsumStart.val + (frameLen c - 2 - s.params.mgCsumStart.val) = frameLen c - 2 := by omega
  have hdiffer := xorFrom_flip_ne hend hpass hle hlt hflip
  exact ⟨_, _, _, _,
    magellanChecksumIsChecked c { s with pkt := s.pkt.write k (s.pkt.read k ^^^ flip) } hc hd hn hlf hdiffer, hdiffer,
    rfl, rfl, rfl, rfl, rfl, rfl, rfl, rfl, rfl, rfl⟩

/-! ## A valid time packet -/

/-- The state at another point of the ring and of the packet in progress. -/
def withPacket (rd : Byte) (pkt : Memory) (plen : BitVec 5) (esc : Bool) (s : State) : State :=
  { s with rd := rd, pkt := pkt, plen := plen, esc := esc }

section
variable (ts : Timestamp) (rd : Byte) (pkt : Memory) (plen : BitVec 5) (esc : Bool) (s : State)

@[simp] theorem withPacket_cd : (withPacket rd pkt plen esc s).cd = s.cd := rfl
@[simp] theorem withPacket_explen : (withPacket rd pkt plen esc s).explen = s.explen := rfl
@[simp] theorem withPacket_remaining : (withPacket rd pkt plen esc s).remaining = s.remaining := rfl
@[simp] theorem withPacket_recordSync : (withPacket rd pkt plen esc s).recordSync = s.recordSync := rfl

theorem countdownStep_withPacket :
    countdownStep (withPacket rd pkt plen esc s) = withPacket rd pkt plen esc (countdownStep s) := by
  rw [countdownStep_eq, countdownStep_eq, withPacket_remaining]
  split <;> rfl

theorem cdOnTs_withPacket :
    cdOnTs ts (withPacket rd pkt plen esc s) = withPacket rd pkt plen esc (cdOnTs ts s) := by
  unfold cdOnTs
  rw [withPacket_cd, withPacket_explen]
  split
  · cases s.cd with
    | triggered => rfl
    | enabled => exact countdownStep_withPacket rd pkt plen esc (emit .dbgMissedPulse s)
    | syncing => dsimp only; split <;> rfl
  · rfl

theorem latchSync_withPacket :
    latchSync (withPacket rd pkt plen esc s) = withPacket rd pkt plen esc (latchSync s) := by
  rw [latchSync_eq, latchSync_eq, withPacket_recordSync]
  split <;> rfl

/-- ACCEPT_TS neither reads nor writes RD and the packet in progress. -/
theorem acceptTs_withPacket :
    acceptTs ts (withPacket rd pkt plen esc s) = withPacket rd pkt plen esc (acceptTs ts s) := by
  have h : latchSync (cdOnTs ts (withPacket rd pkt plen esc { s with curTs := ts, link := .active })) =
      withPacket rd pkt plen esc (latchSync (cdOnTs ts { s with curTs := ts, link := .active })) := by
    rw [cdOnTs_withPacket, latchSync_withPacket]
  exact congrArg (fun u : State => { u with updated := true }) h

end

theorem Month.ofNumber_number (m : Month) : Month.ofNumber m.number = some m := by cases m <;> rfl

/-- The Timestamp of a packet whose month is in range (43_magellan_decoder R135, 30_encoding R76). -/
theorem magellanTimestamp_of_month {s : State} {m : Month} (h : (readPkt s s.params.mtOffMonth).toNat = m.number) :
    magellanTimestamp s =
      some
        { hours := readPkt s s.params.mtOffHour, minutes := readPkt s s.params.mtOffMin,
          seconds := readPkt s s.params.mtOffSec, day := BitVec.ofNat 8 (magellanDate s m).1,
          month := BitVec.ofNat 8 (magellanDate s m).2.1.number, year := BitVec.ofNat 16 (magellanDate s m).2.2,
          locked := s.magLocked } := by
  rw [magellanTimestamp, h, Month.ofNumber_number]

/-- Settles O41. -/
theorem timePacketIsAccepted : Obligations.TimePacketIsAccepted := by
  intro s month hd hplen hlf hsum
  dsimp only
  intro hmonth
  have hn : s.plen.toNat + 1 = frameLen .magTime := by rw [hplen]; rfl
  have hstored : storedByte s = withPacket (s.rd + 1) (s.pkt.write 12 s.params.mgLf) 13 s.esc s := by
    rw [storedByte, hlf, hplen]; rfl
  have hfinish := mgFinish_of_time ((storedByte_last hn).trans hlf)
    ((storedByte_checksum hn).trans (hsum.trans (storedByte_expected hn).symm))
    (magellanTimestamp_of_month (s := storedByte s) (m := month) (by rw [hstored]; exact hmonth))
  have hscan := (exec_scan_last_byte (by decide) hd hn).trans (congrArg Host.Outcome.next hfinish)
  rw [hstored, finishedAccepted, acceptTs_withPacket] at hscan
  refine ⟨_, hscan, ?_⟩
  rw [acceptTs_frame]
  exact ⟨rfl, rfl, rfl, rfl, rfl, rfl, rfl, rfl, rfl, rfl, rfl, rfl⟩

end Sys2Proof.Machine
end

section
/-! PROOFS. The ports (30_encoding R60, R65, R66, R80, R81, 60_exceptions R188, R190): the packed Timestamp, the codes, and
the order of strobes that arrive together. -/

namespace Sys2Proof.Machine

/-! ## The packed Timestamp -/

/-- The packed word, field by field (30_encoding R66). -/
theorem pack_fields (t : Timestamp) :
    t.pack.extractLsb' 49 8 = t.hours ∧ t.pack.extractLsb' 41 8 = t.minutes ∧ t.pack.extractLsb' 33 8 = t.seconds ∧
    t.pack.extractLsb' 25 8 = t.day ∧ t.pack.extractLsb' 17 8 = t.month ∧ t.pack.extractLsb' 1 16 = t.year ∧
    t.pack.getLsbD 0 = t.locked := by
  simp only [Timestamp.pack, BitVec.extractLsb'_cast, BitVec.getLsbD_cast]
  refine ⟨?_, ?_, ?_, ?_, ?_, ?_, (BitVec.getLsbD_append).trans (BitVec.getLsbD_ofBool ..)⟩
  all_goals simp only [BitVec.extractLsb'_append_eq_of_le, BitVec.extractLsb'_append_eq_right,
    BitVec.extractLsb'_eq_self, le_refl, Nat.reduceLeDiff, Nat.reduceSub]

/-- A word is packed from its own fields (30_encoding R66). -/
theorem pack_unpack (w : BitVec 57) : (Timestamp.unpack w).pack = w := by
  have join : ∀ a m n : Nat, w.extractLsb' (a + m) n ++ w.extractLsb' a m = w.extractLsb' a (n + m) :=
    fun a m n => BitVec.extractLsb'_append_extractLsb'_eq_extractLsb' rfl
  have hlocked : BitVec.ofBool (w.getLsbD 0) = w.extractLsb' 0 1 := by
    ext i hi
    obtain rfl : i = 0 := by omega
    simp
  simp only [Timestamp.pack, Timestamp.unpack, hlocked]
  rw [join 41 8 8, join 33 8 (8 + 8), join 25 8 (8 + 8 + 8), join 17 8 (8 + 8 + 8 + 8), join 1 16 (8 + 8 + 8 + 8 + 8),
    join 0 1 (8 + 8 + 8 + 8 + 8 + 16)]
  exact BitVec.extractLsb'_eq_self

/-- Settles O56. -/
theorem timestampPacking : Obligations.TimestampPacking := ⟨pack_fields, pack_unpack, by decide⟩

/-! ## The codes -/

/-- An event that reports an error carries the code of its kind (60_exceptions R190). -/
theorem code_of_errorKind {e : OutEvent} {k : ErrorKind} (h : e.errorKind = some k) : e.code = k.code := by
  cases e <;> cases h <;> rfl

/-- Settles O57. -/
theorem codesOfRegistersAndEvents : Obligations.CodesOfRegistersAndEvents := by
  refine ⟨⟨rfl, rfl, rfl, rfl⟩, ⟨rfl, rfl, rfl⟩, ⟨rfl, rfl, rfl⟩, fun l => ?_, fun c => ?_, fun ts l n c e bytes => ?_,
    fun e => ?_, fun e k => code_of_errorKind⟩
  · cases l <;> decide
  · cases c <;> decide
  · exact ⟨rfl, rfl, rfl, rfl, rfl, rfl, rfl, rfl, rfl, rfl, rfl, rfl, rfl⟩
  · cases e <;> simp [OutEvent.code]

/-! ## Strobes that arrive together -/

/-- A strobe that carries no data delivers at most its operation. -/
theorem strobe_sublist (b : Bool) (i : Instr) : (if b then [i] else []).Sublist [i] := by
  cases b <;> simp

/-- A strobe that carries a byte delivers at most its operation with that byte. -/
theorem dataStrobe_sublist (o : Option Byte) (f : Byte → Instr) : (o.map f).toList.Sublist [f (o.getD 0)] := by
  cases o <;> simp

theorem mem_strobe {b : Bool} {i j : Instr} : j ∈ (if b then [i] else []) ↔ b = true ∧ j = i := by
  cases b <;> simp

theorem mem_dataStrobe {o : Option Byte} {f : Byte → Instr} {j : Instr} :
    j ∈ (o.map f).toList ↔ ∃ b, o = some b ∧ j = f b := by
  cases o <;> simp

/-- What an instant delivers: each operation whose strobe is set (60_exceptions R188). -/
theorem mem_operations {p : Inputs} {i : Instr} :
    i ∈ p.operations ↔
      p.rst = true ∧ i = .reset ∨ (∃ b, p.rx = some b ∧ i = .rxb b) ∨ p.pps = true ∧ i = .pps ∨
      p.tick = true ∧ i = .tick ∨ (∃ n, p.cfg = some n ∧ i = .cfg n) ∨ p.poll = true ∧ i = .poll ∨
      p.step = true ∧ i = .scan := by
  simp only [Inputs.operations, List.mem_append, mem_strobe, mem_dataStrobe, or_assoc]

/-- Settles O59. -/
theorem simultaneousRequestsAreOrdered : Obligations.SimultaneousRequestsAreOrdered := by
  intro p
  refine ⟨?_, ?_, ?_, ?_, ?_, ?_, ?_, ?_⟩
  · exact ((((((strobe_sublist p.rst .reset).append (dataStrobe_sublist p.rx .rxb)).append
      (strobe_sublist p.pps .pps)).append (strobe_sublist p.tick .tick)).append (dataStrobe_sublist p.cfg .cfg)).append
      (strobe_sublist p.poll .poll)).append (strobe_sublist p.step .scan)
  all_goals simp [mem_operations]

end Sys2Proof.Machine
end

section
/-! PROOFS. RXB, POLL and SCAN one at a time (40_ring_buffer R90 to R95, 44_link_state R151), no operation fails (R97 (d),
60_exceptions R185), and a poll call ends (R99). -/

namespace Sys2Proof.Machine

/-! ## Every operation completes -/

/-- SCAN needs a scratch cell only for a packet in progress, and one whose frame is not full has it. -/
theorem exec_scan_completes {s : State} (hl : s.lengthBelowFrame) : ∃ t, exec .scan s = .next t := by
  cases hb : s.busy with
  | false => exact ⟨s, exec_scan_of_idle hb⟩
  | true =>
    by_cases hr : s.rd = s.snap
    · exact ⟨_, exec_scan_of_drained hb hr⟩
    · cases hp : s.ptype with
      | unknown => exact ⟨_, execScan_of_synchronizing ⟨hb, hr, hp⟩⟩
      | known c => exact ⟨_, exec_scan_decoding ⟨hb, hr, hp⟩ (lengthBelow_of_known hl hp)⟩

theorem exec_completes (i : Instr) {s : State} (hl : s.lengthBelowFrame) : ∃ t, exec i s = .next t := by
  cases i with
  | scan => exact exec_scan_completes hl
  | _ => exact ⟨_, rfl⟩

theorem step_of_nil {s : State} (h : s.input = []) : step s = .next s := by
  rw [step, fetchEvent, h]

theorem step_of_cons {s : State} {w : EventWord} {rest : List EventWord} (h : s.input = w :: rest) :
    step s = exec (decodeEvent w) { s with input := rest } := by
  rw [step, fetchEvent, h]

theorem step_completes {s : State} (hl : s.lengthBelowFrame) : ∃ t, step s = .next t := by
  cases hin : s.input with
  | nil => exact ⟨s, step_of_nil hin⟩
  | cons w rest =>
    rw [step_of_cons hin]
    exact exec_completes (decodeEvent w) (s := { s with input := rest }) hl

/-- Settles O13: the invariant leaves a packet in progress a scratch cell, and nothing else can stop an operation. -/
theorem nothingStopsTheBlock : Obligations.NothingStopsTheBlock := by
  refine ⟨fun i s hi => ?_, fun s hi => step_completes hi.lengthBelow⟩
  obtain ⟨t, ht⟩ := exec_completes i hi.lengthBelow
  exact ⟨t, ht, exec_inv hi ht⟩

/-! ## RXB -/

/-- Settles O16. -/
theorem rxbStoresTheByte : Obligations.RxbStoresTheByte := by
  refine ⟨decodeEvent_eventWord 5, fun b s => ⟨receive b s, exec_rxb b s, ?_, fun a ha => ?_, ?_, rfl, rfl, rfl⟩⟩
  · exact Memory.read_write_self s.buf s.wr.toNat b
  · exact Memory.read_write_of_ne s.buf b ha
  · exact BitVec.toNat_add s.wr 1

/-! ## A poll call ends -/

/-- A bound on the SCANs of a poll call in progress, the one that ends it included: one a byte, and while no packet is in
progress a match may give two bytes back (40_ring_buffer R99). -/
def scansDue (s : State) : Nat := (s.snap - s.rd).toNat + if s.ptype = .unknown then 4 else 1

theorem scansDue_le (s : State) : scansDue s ≤ (s.snap - s.rd).toNat + 4 := by
  rw [scansDue]
  split <;> omega

theorem scansDue_pos (s : State) : 0 < scansDue s := by
  rw [scansDue]
  split <;> omega

theorem scansDue_of_unknown {s : State} (h : s.ptype = .unknown) : scansDue s = (s.snap - s.rd).toNat + 4 := by
  rw [scansDue, if_pos h]

theorem scansDue_of_known {c : PacketClass} {s : State} (h : s.ptype = .known c) :
    scansDue s = (s.snap - s.rd).toNat + 1 := by
  rw [scansDue, h, if_neg PType.noConfusion]

/-- A skip takes a byte, and a match gives two back but starts a packet. -/
theorem syncStep_scansDue_lt {s : State} (hr : s.rd ≠ s.snap) (hp : s.ptype = .unknown) :
    scansDue (syncStep s) < scansDue s := by
  rw [scansDue_of_unknown hp, syncStep]
  cases classify s.params (window s) with
  | none =>
    have hu := unread_succ hr
    dsimp only
    rw [scansDue_of_unknown (s := skipByte s) hp, skipByte_snap, skipByte_rd]
    omega
  | some c =>
    have hrew := unread_rewind s.snap s.rd c
    have hdue : scansDue (recognise c s) = (s.snap - (s.rd - rewind c)).toNat + 1 := by
      rw [recognise_eq]
      exact scansDue_of_known rfl
    dsimp only
    omega

/-- A decoder step that leaves room in the frame takes a byte. -/
theorem afterMove_scansDue_lt {c : PacketClass} {s : State} (hr : s.rd ≠ s.snap) (hp : s.ptype = .known c)
    (hn : s.plen.toNat < frameLen c) (hlt : (afterMove c s).plen.toNat < frameLen c) :
    scansDue (afterMove c s) < scansDue s := by
  have hu := unread_succ hr
  have hsnap : (afterMove c s).snap = s.snap := rfl
  rw [scansDue_of_known hp, scansDue_of_known ((afterMove_ptype c s).trans hp), hsnap, afterMove_rd_of_room hn hlt]
  omega

/-- A SCAN of a poll call ends the call or leaves fewer SCANs due. -/
theorem exec_scan_ends_or_lt {s t : State} (hl : s.lengthBelowFrame) (hb : s.busy = true) (h : exec .scan s = .next t) :
    t.busy = false ∨ scansDue t < scansDue s := by
  by_cases hr : s.rd = s.snap
  · rw [exec_scan_of_drained hb hr] at h
    cases h
    exact .inl (endPoll_busy s)
  · cases hp : s.ptype with
    | unknown =>
      rw [execScan_of_synchronizing ⟨hb, hr, hp⟩] at h
      cases h
      exact .inr (syncStep_scansDue_lt hr hp)
    | known c =>
      have hn := lengthBelow_of_known hl hp
      have hle := decoderMove_stores_le hn
      rw [← afterMove_plen hn] at hle
      rw [exec_scan_decoding ⟨hb, hr, hp⟩ hn] at h
      cases h
      split
      next hfull => exact .inl (by rw [(finishes_finish c (afterMove c s)).frame])
      next hroom => exact .inr (afterMove_scansDue_lt hr hp hn (lt_of_le_of_ne hle hroom))

/-- As many SCANs as are due end the poll call. -/
theorem scanWhileBusy_ends {fuel : Nat} : ∀ {s : State}, s.Inv → scansDue s ≤ fuel →
    ∃ t, scanWhileBusy fuel s = .next t ∧ t.busy = false := by
  induction fuel with
  | zero => exact fun {s} _ hfuel => absurd (scansDue_pos s) (by omega)
  | succ fuel ih =>
    intro s hi hfuel
    cases hb : s.busy with
    | false => exact ⟨s, scanWhileBusy_of_idle hb _, hb⟩
    | true =>
      obtain ⟨t, ht⟩ := exec_scan_completes hi.lengthBelow
      rw [scanWhileBusy_succ fuel hb ht]
      obtain hidle | hlt := exec_scan_ends_or_lt hi.lengthBelow hb ht
      · exact ⟨t, scanWhileBusy_of_idle hidle fuel, hidle⟩
      · exact ih (exec_scan_inv hi ht) (by omega)

/-- Settles O28, by induction on the SCANs due. -/
theorem pollCallEnds : Obligations.PollCallEnds := fun s hi _ => scanWhileBusy_ends hi (scansDue_le s)

/-! ## POLL and the dispatch of SCAN -/

theorem exec_poll_of_idle {s : State} (hb : s.busy = false) : exec .poll s = .next (polled s) := by
  simp only [exec, execPoll, hb, Bool.false_eq_true, if_false, polled]

theorem exec_poll_of_busy {s : State} (hb : s.busy = true) : exec .poll s = .next s := by
  simp only [exec, execPoll, hb, if_true]

/-- Settles O18. -/
theorem pollTakesTheSnapshot : Obligations.PollTakesTheSnapshot :=
  ⟨decodeEvent_eventWord 1, fun _ => ⟨exec_poll_of_idle, exec_poll_of_busy⟩⟩

/-- Settles O19. -/
theorem scanDispatches : Obligations.ScanDispatches := by
  refine ⟨decodeEvent_eventWord 0, fun s => ⟨exec_scan_of_idle, exec_scan_of_drained, ?_, ?_, ?_, ?_⟩⟩ <;> intro hb hr hp
  · exact execScan_of_synchronizing ⟨hb, hr, hp⟩
  all_goals exact execScan_of_decoding ⟨hb, hr, hp⟩

/-- Settles O20: END_POLL as one update. -/
theorem drainedScanEndsThePollCall : Obligations.DrainedScanEndsThePollCall := by
  intro s hb hr
  rw [exec_scan_of_drained hb hr, endPoll_eq]

end Sys2Proof.Machine
end

section
/-! PROOFS. The synchronizer's step by the bytes it reads (41_synchronizer R101 to R105), and the window that the model
lays under the read cursor (log 7). -/

namespace Sys2Proof.Machine

/-! ## What a synchronizer step does, by the class of its window -/

theorem exec_scan_of_class {c : PacketClass} {s : State} (hs : synchronizing s)
    (hc : classify s.params (window s) = some c) : exec .scan s = .next (recognise c s) := by
  rw [execScan_of_synchronizing hs, syncStep_of_classify hc]

theorem exec_scan_of_no_class {s : State} (hs : synchronizing s) (hc : classify s.params (window s) = none) :
    exec .scan s = .next (skipByte s) := by
  rw [execScan_of_synchronizing hs, syncStep, hc]

/-- Counting one more in a byte stops at 255 (00_scope R7). -/
theorem sat255_succ (b : Byte) : sat255 (b.toNat + 1) = if b = 255 then 255 else b + 1 := by
  unfold sat255
  split
  next h => rw [h]; rfl
  next h => bv_omega

/-- The skip as one update, its saturation written out (41_synchronizer R103). -/
theorem skipByte_update (s : State) :
    skipByte s = { s with rd := s.rd + 1, skip := if s.skip = 255 then 255 else s.skip + 1 } := by
  rw [← sat255_succ]
  rfl

/-- Settles O21: the classifier's rows are the statement's cases, in the same order. -/
theorem synchronizerSkipsOrMatches : Obligations.SynchronizerSkipsOrMatches := by
  intro s hs
  dsimp only
  rw [← window_byte_zero, ← window_byte_one, ← window_byte_two, ← window_byte_three, ← skipByte_update,
    ← recognise_update, ← recognise_update, ← recognise_update]
  split
  next htime => exact exec_scan_of_class hs (if_pos htime)
  next htime =>
    split
    next hstatus => exact exec_scan_of_class hs ((if_neg htime).trans (if_pos hstatus))
    next hstatus =>
      have hfirst : classify s.params (window s) = _ := (if_neg htime).trans (if_neg hstatus)
      split
      next htrimble => exact exec_scan_of_class hs (hfirst.trans (if_pos htrimble))
      next htrimble => exact exec_scan_of_no_class hs (hfirst.trans (if_neg htrimble))

/-- Settles O22: the frame's first three bytes are the window's last three, and RD goes back over two of them. -/
theorem rewindLandsOnTheFirstByte : Obligations.RewindLandsOnTheFirstByte := by
  intro s c hs hc
  refine ⟨recognise c s, exec_scan_of_class hs hc, ?_⟩
  have hsecond : s.rd - 2 + 1 = s.rd - 1 := by bv_omega
  have hthird : s.rd - 2 + 2 = s.rd := by bv_omega
  have hbytes := classify_eq_some hc
  rw [recognise_update]
  refine ⟨rfl, rfl, ?_⟩
  dsimp only
  rw [hsecond, hthird, ← window_byte_zero, ← window_byte_one, ← window_byte_two]
  cases c with
  | magTime =>
    obtain ⟨h2, h1, h0⟩ := hbytes
    rw [h2, h1, h0]
  | magStatus =>
    obtain ⟨h2, h1, h0, -⟩ := hbytes
    rw [h2, h1, h0]
  | trimble =>
    obtain ⟨-, h2, h1, h0, -⟩ := hbytes
    rw [h2, h1, h0]

/-! ## The window laid under the read cursor -/

/-- The window's bytes are stored oldest first, in four cells that end under RD. -/
theorem placeWindow_buf (w : Window) (s : State) :
    (placeWindow w s).buf = (writeRingFrom (s.rd - 3) [w.byte 3, w.byte 2, w.byte 1, w.byte 0] s).buf := by
  have h2 : s.rd - 3 + 1 = s.rd - 2 := by bv_omega
  have h1 : s.rd - 2 + 1 = s.rd - 1 := by bv_omega
  have h0 : s.rd - 1 + 1 = s.rd := by bv_omega
  simp only [writeRingFrom, h2, h1, h0]
  rfl

theorem read_placeWindow (w : Window) (s : State) (k : Fin 4) :
    (placeWindow w s).buf.read (s.rd - BitVec.ofNat 8 k.val).toNat = w.byte k := by
  have hindex : (s.rd - BitVec.ofNat 8 k.val - (s.rd - 3)).toNat = 3 - k.val := by bv_omega
  rw [placeWindow_buf, read_writeRingFrom (by simp), hindex]
  fin_cases k <;> rfl

theorem window_placeWindow (w : Window) (s : State) : window (placeWindow w s) = w := by
  apply Window.ext_byte
  · exact (window_byte_three _).trans (read_placeWindow w s 3)
  · exact (window_byte_two _).trans (read_placeWindow w s 2)
  · exact (window_byte_one _).trans (read_placeWindow w s 1)
  · have h0 := read_placeWindow w s 0
    rw [Fin.val_zero, BitVec.sub_zero] at h0
    exact (window_byte_zero _).trans h0

/-- The slice of the poll call in progress is the one byte under RD. -/
theorem synchronizing_placeWindow (w : Window) (s : State) : synchronizing (placeWindow w s) := by
  have hslice : s.rd ≠ s.rd + 1 := by bv_omega
  exact ⟨rfl, hslice, rfl⟩

theorem step_presentNext (w : EventWord) (s : State) : step (presentNext w s) = exec (decodeEvent w) s := rfl

theorem withFetchWord_window (w : Window) (s : State) :
    s.withFetchWord 32 w.toNat = presentNext (eventWord 0 0) (placeWindow w s) := by
  rw [State.withFetchWord, if_neg (by decide), BitVec.ofNat_toNat, BitVec.setWidth_eq]

/-- Settles O9: the step is the SCAN presented, and the synchronizer reads back the window laid (O23). -/
theorem stepRunsThePlacedSignature : Obligations.StepRunsThePlacedSignature := by
  intro s w i hdec
  rw [withFetchWord_window, step_presentNext, decodeEvent_eventWord, if_pos rfl]
  refine scanRunsTheSignatureItDecodes (placeWindow w s) i (synchronizing_placeWindow w s) ?_
  rw [window_placeWindow]
  exact hdec

end Sys2Proof.Machine
end

section
/-! PROOFS. The Trimble decoder's step case by case (42_trimble_decoder R116, R117), and how a frame ends (R118, R119,
60_exceptions R192): TB_FINISH accepts exactly the frames that end in DLE, ETX. -/

namespace Sys2Proof.Machine

/-! ## TB_FINISH -/

theorem trimbleTerminated_iff (s : State) :
    trimbleTerminated s = true ↔ s.pkt.read 19 = s.params.dle ∧ s.pkt.read 20 = s.params.etx := by
  rw [trimbleTerminated, Bool.and_eq_true, beq_iff_eq, beq_iff_eq]
  rfl

theorem tbFinish_of_terminated {s : State} (h : s.pkt.read 19 = s.params.dle ∧ s.pkt.read 20 = s.params.etx) :
    tbFinish s = finishedAccepted (trimbleTimestamp s) s := by
  obtain ⟨-, e⟩ | ⟨hf, -⟩ := tbFinish_cases s
  · exact e
  · rw [(trimbleTerminated_iff s).mpr h] at hf
    cases hf

theorem tbFinish_of_not_terminated {s : State} (h : ¬ (s.pkt.read 19 = s.params.dle ∧ s.pkt.read 20 = s.params.etx)) :
    tbFinish s = finishedRejected (.dbgMalformed (pktBytes s tbLen)) s := by
  obtain ⟨ht, -⟩ | ⟨-, e⟩ := tbFinish_cases s
  · exact absurd ((trimbleTerminated_iff s).mp ht) h
  · exact e

/-- A year sent as two bytes fits its 16-bit field. -/
theorem year_of_bytes (hi lo : Byte) :
    BitVec.ofNat 16 (hi.toNat * 256 + lo.toNat) = hi.setWidth 16 * 256 + lo.setWidth 16 := by
  bv_omega

/-- The fields of a Trimble frame at their offsets, as the state has them (42_trimble_decoder R119, 30_encoding R72). -/
theorem trimbleTimestamp_eq (s : State) :
    trimbleTimestamp s =
      { hours := s.pkt.read s.params.tbOffHour, minutes := s.pkt.read s.params.tbOffMin,
        seconds := s.pkt.read s.params.tbOffSec, day := s.pkt.read s.params.tbOffDay,
        month := s.pkt.read s.params.tbOffMonth,
        year := (s.pkt.read s.params.tbOffYearHi).setWidth 16 * 256 + (s.pkt.read s.params.tbOffYearLo).setWidth 16,
        locked := decide (s.pkt.read s.params.tbOffStatus &&& s.params.tbLockMask = s.params.tbLockValue) } := by
  rw [← year_of_bytes]
  rfl

/-- Settles O34: the terminator test decides between acceptance and the report. -/
theorem trimbleFinishValidatesTheTerminator : Obligations.TrimbleFinishValidatesTheTerminator := by
  intro s
  refine ⟨fun h => ?_, fun h => ?_⟩
  · rw [tbFinish_of_terminated h, trimbleTimestamp_eq]
    rfl
  · rw [tbFinish_of_not_terminated h]
    rfl

/-! ## The five moves -/

section
variable {s : State}

theorem decoderMove_first_dle (he : s.esc = false) (hb : s.buf.read s.rd.toNat = s.params.dle) :
    decoderMove .trimble s = ⟨true, true, []⟩ := by simp [decoderMove, he, hb]

theorem decoderMove_plain (he : s.esc = false) (hb : s.buf.read s.rd.toNat ≠ s.params.dle) :
    decoderMove .trimble s = ⟨true, false, [s.buf.read s.rd.toNat]⟩ := by simp [decoderMove, he, hb]

theorem decoderMove_second_dle (he : s.esc = true) (hb : s.buf.read s.rd.toNat = s.params.dle) :
    decoderMove .trimble s = ⟨true, false, [s.params.dle]⟩ := by simp [decoderMove, he, hb]

theorem decoderMove_lone_dle_last (he : s.esc = true) (hb : s.buf.read s.rd.toNat ≠ s.params.dle)
    (hn : s.plen.toNat = 20) : decoderMove .trimble s = ⟨false, false, [s.params.dle]⟩ := by
  simp [decoderMove, he, hb, hn]

theorem decoderMove_lone_dle (he : s.esc = true) (hb : s.buf.read s.rd.toNat ≠ s.params.dle)
    (hn : s.plen.toNat ≠ 20) : decoderMove .trimble s = ⟨true, false, [s.params.dle, s.buf.read s.rd.toNat]⟩ := by
  simp [decoderMove, he, hb, hn]

/-- A Trimble step is its move, and TB_FINISH where the move has filled the frame. -/
theorem exec_scan_of_move (hd : decoding .trimble s) (hn : s.plen.toNat < tbLen) {d : DecoderMove}
    (hmove : decoderMove .trimble s = d) :
    exec .scan s = .next (if (d.apply s).plen.toNat = tbLen then tbFinish (d.apply s) else d.apply s) := by
  rw [exec_scan_decoding hd hn, afterMove, hmove]
  rfl

/-- A Trimble step whose move stores the frame's last byte. -/
theorem exec_scan_of_full (hd : decoding .trimble s) (hn : s.plen.toNat < tbLen) {d : DecoderMove}
    (hmove : decoderMove .trimble s = d) (hfull : s.plen.toNat + d.stores.length = tbLen) :
    exec .scan s = .next (tbFinish (d.apply s)) := by
  have hplen : (d.apply s).plen.toNat = tbLen := by
    rw [← hfull, ← hmove]
    exact afterMove_plen hn
  rw [exec_scan_of_move hd hn hmove, if_pos hplen]

end

/-- Settles O30, one move for each clause. -/
theorem trimbleScannerUnstuffs : Obligations.TrimbleScannerUnstuffs := by
  intro s hd hn
  refine ⟨fun he hb => ?_, fun he hb => ?_, fun he hb => ?_, fun he hb h20 => ?_, fun he hb hlt => ?_⟩
  · rw [exec_scan_of_short hd (decoderMove_first_dle he hb) hn]
    simp [DecoderMove.apply, Memory.writeBytes]
  · rw [exec_scan_of_move hd hn (decoderMove_plain he hb), DecoderMove.apply, ← he]
    rfl
  · exact exec_scan_of_move hd hn (decoderMove_second_dle he hb)
  · have hplen : s.plen = 20 := BitVec.eq_of_toNat_eq h20
    rw [exec_scan_of_full hd hn (decoderMove_lone_dle_last he hb h20) (congrArg (· + 1) h20), DecoderMove.apply, hplen]
    rfl
  · exact exec_scan_of_move hd hn (decoderMove_lone_dle he hb hlt.ne)

/-! ## The end of a frame -/

/-- A step whose one stored byte is the last of a frame without its terminator, whether or not the byte under RD is
consumed. -/
theorem exec_scan_rejects_last {s : State} (hd : decoding .trimble s) (hplen : s.plen = 20) {consumes : Bool} {v : Byte}
    (hmove : decoderMove .trimble s = ⟨consumes, false, [v]⟩) (hbad : s.pkt.read 19 ≠ s.params.dle ∨ v ≠ s.params.etx) :
    exec .scan s = .next
      (finishedRejected (.dbgMalformed ((List.range 20).map s.pkt.read ++ [v]))
        (withPacket (if consumes then s.rd + 1 else s.rd) (s.pkt.write 20 v) 21 false s)) := by
  have happly : DecoderMove.apply ⟨consumes, false, [v]⟩ s =
      withPacket (if consumes then s.rd + 1 else s.rd) (s.pkt.write 20 v) 21 false s := by
    rw [DecoderMove.apply, hplen]
    rfl
  have hlast : (s.pkt.write 20 v).read 20 = v := Memory.read_write_self _ _ _
  have hbefore : (s.pkt.write 20 v).read 19 = s.pkt.read 19 := Memory.read_write_of_ne _ _ (by decide)
  rw [exec_scan_of_full hd (by rw [hplen]; decide) hmove (by rw [hplen]; rfl), happly, tbFinish_of_not_terminated,
    ← map_read_write_last]
  · rfl
  · exact fun ⟨hdle, hetx⟩ => hbad.elim (· (hbefore.symm.trans hdle)) (· (hlast.symm.trans hetx))

/-- The state with a lone DLE and its successor, the byte under RD, stored as the last two bytes of a frame. -/
def storedLoneDle (s : State) : State :=
  withPacket (s.rd + 1) ((s.pkt.write 19 s.params.dle).write 20 (s.buf.read s.rd.toNat)) 21 false s

theorem storedLoneDle_read_19 (s : State) : (storedLoneDle s).pkt.read 19 = s.params.dle :=
  (Memory.read_write_of_ne _ _ (by decide)).trans (Memory.read_write_self _ _ _)

theorem storedLoneDle_read_20 (s : State) : (storedLoneDle s).pkt.read 20 = s.buf.read s.rd.toNat :=
  Memory.read_write_self _ _ _

theorem storedLoneDle_read_of_ne (s : State) {a : Nat} (h19 : a ≠ 19) (h20 : a ≠ 20) :
    (storedLoneDle s).pkt.read a = s.pkt.read a :=
  (Memory.read_write_of_ne _ _ h20).trans (Memory.read_write_of_ne _ _ h19)

theorem storedLoneDle_pktBytes (s : State) :
    pktBytes (storedLoneDle s) tbLen = (List.range 19).map s.pkt.read ++ [s.params.dle, s.buf.read s.rd.toNat] := by
  have hlast : pktBytes (storedLoneDle s) tbLen =
      (List.range 20).map (s.pkt.write 19 s.params.dle).read ++ [s.buf.read s.rd.toNat] := map_read_write_last _ _ _
  rw [hlast, map_read_write_last, List.append_assoc]
  rfl

theorem exec_scan_lone_dle_full {s : State} (hd : decoding .trimble s) (hplen : s.plen = 19) (he : s.esc = true)
    (hb : s.buf.read s.rd.toNat ≠ s.params.dle) : exec .scan s = .next (tbFinish (storedLoneDle s)) := by
  have hmove := decoderMove_lone_dle he hb (by rw [hplen]; decide)
  rw [exec_scan_of_full hd (by rw [hplen]; decide) hmove (by rw [hplen]; rfl), DecoderMove.apply, hplen]
  rfl

/-- Settles O33: three ways to store one last byte, and the lone DLE stored with its successor. -/
theorem trimbleFrameIsRejected : Obligations.TrimbleFrameIsRejected := by
  intro s hd
  refine ⟨fun hn he hb hbad => ?_, fun hn he hb hbad => ?_, fun hn he hb hbad => ?_, fun hn he hb hbad => ?_⟩
  · exact exec_scan_rejects_last hd hn (decoderMove_plain he hb) hbad
  · exact exec_scan_rejects_last hd hn (decoderMove_second_dle he hb) hbad
  · exact exec_scan_rejects_last hd hn (decoderMove_lone_dle_last he hb (congrArg BitVec.toNat hn)) hbad
  · have hopen : ¬ ((storedLoneDle s).pkt.read 19 = s.params.dle ∧ (storedLoneDle s).pkt.read 20 = s.params.etx) :=
      fun ⟨_, hetx⟩ => hbad ((storedLoneDle_read_20 s).symm.trans hetx)
    rw [exec_scan_lone_dle_full hd hn he hb, tbFinish_of_not_terminated hopen, storedLoneDle_pktBytes]
    rfl

/-- Settles O32: the state of the last store is the one before it at another point of the ring and of the packet, which
ACCEPT_TS does not see. -/
theorem trimbleFrameIsAccepted : Obligations.TrimbleFrameIsAccepted := by
  intro s hd he hplen hne hb P pkt ts
  have hpkt : (storedLoneDle s).pkt = pkt := congrArg ((s.pkt.write 19 P.dle).write 20) hb
  have hstored : storedLoneDle s = withPacket (s.rd + 1) pkt 21 false s := hpkt ▸ rfl
  have hdle : pkt.read 19 = P.dle := hpkt ▸ storedLoneDle_read_19 s
  have hetx : pkt.read 20 = P.etx := Memory.read_write_self _ _ _
  have hframe : ∀ a, a ≠ 19 → a ≠ 20 → pkt.read a = s.pkt.read a := fun _ h19 h20 =>
    hpkt ▸ storedLoneDle_read_of_ne s h19 h20
  have hscan : exec .scan s = .next (finishedAccepted ts (withPacket (s.rd + 1) pkt 21 false s)) := by
    rw [exec_scan_lone_dle_full hd hplen he (hb ▸ hne.symm), hstored, tbFinish_of_terminated ⟨hdle, hetx⟩,
      trimbleTimestamp_eq]
    rfl
  rw [finishedAccepted, acceptTs_withPacket] at hscan
  refine ⟨_, hscan, ?_⟩
  rw [acceptTs_frame]
  exact ⟨rfl, rfl, rfl, rfl, rfl, rfl, rfl, rfl, rfl, hdle, hetx, hframe, rfl, rfl, rfl⟩

end Sys2Proof.Machine
end

section
/-! PROOFS. NORMALISE ends on a valid date, the same day as the one it was given (43_magellan_decoder R136, R137): every pass
renames the day in the month after, and takes enough days away for the loop's own test to end it. -/

namespace Sys2Proof.Machine

theorem one_le_daysInMonth (m : Month) (y : Nat) : 1 ≤ daysInMonth m y := by
  unfold daysInMonth
  split
  · split <;> decide
  all_goals decide

theorem Month.number_mem_range (m : Month) : 1 ≤ m.number ∧ m.number ≤ 12 := by cases m <;> decide

/-- The first day of the month after comes behind the last day of the month, at the turn of the year too. -/
theorem dayNumber_next (d : Nat) (m : Month) (y : Nat) :
    dayNumber d m.next (yearAfter m y) = dayNumber (d + daysInMonth m y) m y := by
  cases m with
  | dec =>
    have hyear : daysBeforeYear (y + 1) = daysBeforeYear y + daysBeforeMonth .dec y + daysInMonth .dec y := by
      simp only [daysBeforeYear, daysBeforeMonth, daysInMonth]
      split <;> rfl
    show daysBeforeYear (y + 1) + 0 + d = daysBeforeYear y + daysBeforeMonth .dec y + (d + daysInMonth .dec y)
    omega
  | _ =>
    simp only [dayNumber, daysBeforeMonth, daysInMonth, Month.next, yearAfter, reduceCtorEq, if_false]
    omega

/-- A pass of the loop names the same day. -/
theorem dayNumber_pass {d : Nat} {m : Month} {y : Nat} (h : daysInMonth m y < d) :
    dayNumber (d - daysInMonth m y) m.next (yearAfter m y) = dayNumber d m y := by
  rw [dayNumber_next, Nat.sub_add_cancel h.le]

theorem normaliseLoop_of_le {d : Nat} {m : Month} {y : Nat} (h : d ≤ daysInMonth m y) (fuel : Nat) :
    normaliseLoop (fuel + 1) d m y = (d, m, y) := if_neg (not_lt.mpr h)

theorem normaliseLoop_of_gt {d : Nat} {m : Month} {y : Nat} (h : daysInMonth m y < d) (fuel : Nat) :
    normaliseLoop (fuel + 1) d m y = normaliseLoop fuel (d - daysInMonth m y) m.next (yearAfter m y) := if_pos h

/-- A day that its month has. -/
def validDate (date : Nat × Month × Nat) : Prop := 1 ≤ date.1 ∧ date.1 ≤ daysInMonth date.2.1 date.2.2

/-- As many passes as there are days are enough. -/
theorem validDate_normaliseLoop (fuel : Nat) : ∀ {d : Nat} (m : Month) (y : Nat), 1 ≤ d → d ≤ fuel →
    validDate (normaliseLoop fuel d m y) := by
  induction fuel with
  | zero => intro d m y hpos hle; omega
  | succ fuel ih =>
    intro d m y hpos hle
    by_cases h : d ≤ daysInMonth m y
    · rw [normaliseLoop_of_le h]
      exact ⟨hpos, h⟩
    · have hdays := one_le_daysInMonth m y
      rw [normaliseLoop_of_gt (not_le.mp h)]
      exact ih m.next (yearAfter m y) (by omega) (by omega)

/-- However many passes are made, the day is the same. -/
theorem dayNumber_normaliseLoop (fuel : Nat) : ∀ (d : Nat) (m : Month) (y : Nat),
    dayNumber (normaliseLoop fuel d m y).1 (normaliseLoop fuel d m y).2.1 (normaliseLoop fuel d m y).2.2 =
      dayNumber d m y := by
  induction fuel with
  | zero => intro d m y; rfl
  | succ fuel ih =>
    intro d m y
    by_cases h : d ≤ daysInMonth m y
    · rw [normaliseLoop_of_le h]
    · rw [normaliseLoop_of_gt (not_le.mp h), ih, dayNumber_pass (not_le.mp h)]

/-- Settles O43. -/
theorem normaliseIsExact : Obligations.NormaliseIsExact := by
  intro d m y hd r
  obtain ⟨hpos, hle⟩ : validDate r := validDate_normaliseLoop d m y hd (le_refl d)
  obtain ⟨hone, htwelve⟩ := r.2.1.number_mem_range
  exact ⟨hpos, hle, hone, htwelve, dayNumber_normaliseLoop d d m y⟩

/-- Settles O44, by evaluation. -/
theorem normaliseWorkedCases : Obligations.NormaliseWorkedCases := ⟨rfl, rfl, rfl, rfl, rfl, rfl⟩

end Sys2Proof.Machine
end

section
/-! PROOFS. The Magellan decoder's step and the end of its packets (43_magellan_decoder R131, R132, R134, R138, 60_exceptions
R192): each test of MG_FINISH, and what a packet that passes them does. -/

namespace Sys2Proof.Machine

/-! ## The step -/

theorem decoderMove_magellan {c : PacketClass} (hc : c ≠ .trimble) (s : State) :
    decoderMove c s = ⟨true, s.esc, [s.buf.read s.rd.toNat]⟩ := by
  cases c with
  | magTime => rfl
  | magStatus => rfl
  | trimble => exact absurd rfl hc

/-- Settles O35: a byte short of the frame's end is a move alone, the last one a move and the packet's end. -/
theorem magellanStepStoresOneByte : Obligations.MagellanStepStoresOneByte := by
  intro c s hc hd _ stored
  refine ⟨fun hmore => ?_, fun hlast => ?_, Memory.read_write_self _ _ _, fun a ha => Memory.read_write_of_ne _ _ ha⟩
  · exact exec_scan_of_short hd (decoderMove_magellan hc s) hmore
  · exact exec_scan_last_byte hc hd hlast

/-! ## MG_FINISH -/

/-- A packet that passes both tests is accepted by its variant. -/
theorem mgFinish_of_valid {c : PacketClass} {s : State} (hlf : s.pkt.read (frameLen c - 1) = s.params.mgLf)
    (hsum : checksum s (frameLen c) = s.pkt.read (frameLen c - 2)) :
    mgFinish c s = endPoll (pktReset (if c = .magStatus then mgStatusAccept s else mgTimeAccept s)) := by
  unfold mgFinish
  dsimp only
  rw [if_neg (not_not.mpr hlf), if_neg (not_not.mpr hsum)]

/-- Settles O36, one clause for each way through the tests. -/
theorem magellanFinishValidatesInOrder : Obligations.MagellanFinishValidatesInOrder := by
  intro c s _ n bytes computed
  have hcomputed : checksum s n = computed := checksum_eq_xorFrom s n
  refine ⟨fun hlf => ?_, fun hlf hsum => ?_, fun hlf hsum hc => ?_, fun hlf hsum hc => ?_⟩
  · rw [mgFinish_of_bad_terminator hlf, endPoll_pktReset_emit]
    rfl
  · rw [mgFinish_of_bad_checksum hlf (hcomputed ▸ hsum), hcomputed, endPoll_pktReset_emit]
    rfl
  · rw [mgFinish_of_valid hlf (hcomputed.trans hsum), if_pos hc]
  · rw [mgFinish_of_valid hlf (hcomputed.trans hsum), if_neg (by rw [hc]; decide)]

/-! ## The last byte -/

/-- The state after the line terminator, as another point of the ring and of the packet in progress. -/
theorem storedByte_of_line_end {s : State} {n : BitVec 5} (hplen : s.plen = n)
    (hlf : s.buf.read s.rd.toNat = s.params.mgLf) :
    storedByte s = withPacket (s.rd + 1) (s.pkt.write n.toNat s.params.mgLf) (n + 1) s.esc s := by
  rw [storedByte, hlf, hplen]
  rfl

/-- The step of the last byte of a packet that passes both tests. -/
theorem exec_scan_valid_last_byte {c : PacketClass} {s : State} (hc : c ≠ .trimble) (hd : decoding c s)
    (hn : s.plen.toNat + 1 = frameLen c) (hlf : s.buf.read s.rd.toNat = s.params.mgLf)
    (hsum : xorFrom s.pkt s.params.mgCsumStart (frameLen c - 2 - s.params.mgCsumStart) = s.pkt.read (frameLen c - 2)) :
    exec .scan s = .next (endPoll (pktReset
      (if c = .magStatus then mgStatusAccept (storedByte s) else mgTimeAccept (storedByte s)))) := by
  have hstoredSum : checksum (storedByte s) (frameLen c) = (storedByte s).pkt.read (frameLen c - 2) := by
    rw [storedByte_checksum hn, hsum, storedByte_expected hn]
  rw [exec_scan_last_byte hc hd hn, mgFinish_of_valid ((storedByte_last hn).trans hlf) hstoredSum]

/-- Settles O37. -/
theorem magellanTerminatorIsChecked : Obligations.MagellanTerminatorIsChecked := by
  intro c s hc hd hn hlf
  have hbad : (storedByte s).pkt.read (frameLen c - 1) ≠ (storedByte s).params.mgLf := by
    rw [storedByte_last hn]
    exact hlf
  rw [exec_scan_last_byte hc hd hn, mgFinish_of_bad_terminator hbad, storedByte_pktBytes hn]
  rfl

/-! ## A valid status packet -/

/-- The lock bit of a complete status packet (43_magellan_decoder R134). -/
def statusLockBit (s : State) : Bool := statusLocked s.params (readPkt s s.params.msOffLock)

theorem mgStatusAccept_of_same {s : State} (h : statusLockBit s = s.magLocked) : mgStatusAccept s = s := if_pos h

theorem mgStatusAccept_of_changed {s : State} (h : statusLockBit s ≠ s.magLocked) :
    mgStatusAccept s =
      { s with magLocked := statusLockBit s, curTs := { s.curTs with locked := statusLockBit s }, updated := true } :=
  if_neg h

theorem statusLocked_eq_decide (P : Params) (b : Byte) : statusLocked P b = decide (b &&& P.msLockMask ≠ 0) := by
  rw [Bool.eq_iff_iff, statusLocked, bne_iff_ne, decide_eq_true_iff]

/-- Settles O40. -/
theorem statusPacketIsEdgeTriggered : Obligations.StatusPacketIsEdgeTriggered := by
  intro s hd hplen hlf hsum pkt l ts
  have hstored : storedByte s = withPacket (s.rd + 1) pkt 16 s.esc s := storedByte_of_line_end hplen hlf
  have hlock : statusLockBit (withPacket (s.rd + 1) pkt 16 s.esc s) = l := statusLocked_eq_decide _ _
  have hscan := exec_scan_valid_last_byte (by decide) hd (by rw [hplen]; rfl) hlf hsum
  rw [if_pos rfl, hstored, endPoll_pktReset_eq] at hscan
  refine ⟨fun hdiffer => ?_, fun hsame => ?_⟩
  · rw [hscan, mgStatusAccept_of_changed (by rw [hlock]; exact hdiffer), hlock]
    rfl
  · rw [hscan, mgStatusAccept_of_same (hlock.trans hsame)]
    rfl

/-! ## A raw month out of range -/

theorem Month.number_of_ofNumber {n : Nat} {m : Month} (h : Month.ofNumber n = some m) : m.number = n := by
  unfold Month.ofNumber at h
  split at h <;> cases h <;> rfl

theorem Month.ofNumber_eq_none {n : Nat} (h : n < 1 ∨ n > 12) : Month.ofNumber n = none := by
  refine Option.eq_none_iff_forall_ne_some.mpr fun m hm => ?_
  have hnumber := Month.number_of_ofNumber hm
  have hrange := m.number_mem_range
  omega

/-- MG_TIME_ACCEPT of a packet whose raw month is no month: the report, and nothing else (43_magellan_decoder R138). -/
theorem mgTimeAccept_of_month_out_of_range {s : State}
    (h : (readPkt s s.params.mtOffMonth).toNat < 1 ∨ (readPkt s s.params.mtOffMonth).toNat > 12) :
    mgTimeAccept s = emit (.dbgMalformed (pktBytes s mgLenTime)) s := by
  rw [mgTimeAccept, magellanTimestamp, Month.ofNumber_eq_none h]

/-- Settles O42. -/
theorem monthOutOfRangeIsMalformed : Obligations.MonthOutOfRangeIsMalformed := by
  intro s hd hplen hlf hsum pkt hmonth
  have hn : s.plen.toNat + 1 = frameLen .magTime := by rw [hplen]; rfl
  have hstored : storedByte s = withPacket (s.rd + 1) pkt 13 s.esc s := storedByte_of_line_end hplen hlf
  have hbytes : pktBytes (storedByte s) mgLenTime = (List.range 12).map s.pkt.read ++ [s.params.mgLf] := by
    rw [← hlf]
    exact (storedByte_pktBytes hn).trans (by rw [hplen]; rfl)
  have haccept := mgTimeAccept_of_month_out_of_range (s := storedByte s) (by rw [hstored]; exact hmonth)
  rw [exec_scan_valid_last_byte (by decide) hd hn hlf hsum, if_neg (by decide), haccept, endPoll_pktReset_emit, hbytes,
    hstored]
  rfl

end Sys2Proof.Machine
end

section
/-! PROOFS. The link state (44_link_state R150 to R157): one more tick of silence, what an operation does to LINK and AGE,
and the acceptance of a Timestamp (45_countdown R170 to R172). -/

namespace Sys2Proof.Machine

/-! ## TICK -/

theorem exec_tick_of_unavailable {s : State} (hl : s.link = .unavailable) : exec .tick s = .next s := by
  simp only [exec, execTick, hl, ne_eq, not_true_eq_false, if_false]

theorem exec_tick_of_linked {s : State} (hl : s.link ≠ .unavailable) :
    exec .tick s = .next (
      if (s.age + 1).toNat ≤ s.params.silenceLimit then { s with age := s.age + 1 }
      else { s with age := s.age + 1, link := .unavailable, trace := s.trace ++ [.linkLost] }) := by
  have hsilent : silent s.params (s.age + 1) = true ↔ ¬ (s.age + 1).toNat ≤ s.params.silenceLimit := by
    rw [silent, decide_eq_true_iff, gt_iff_lt, not_le]
  simp only [exec, execTick, if_pos hl, hsilent, ite_not, emit]

/-- Settles O46. -/
theorem tickCountsSilence : Obligations.TickCountsSilence := by
  refine ⟨decodeEvent_eventWord 3, fun s => ⟨exec_tick_of_unavailable, fun hl hage hle => ?_, fun hl hage hgt => ?_⟩⟩
  · rw [← age_succ_toNat hage] at hle
    rw [exec_tick_of_linked hl, if_pos hle]
  · rw [← age_succ_toNat hage] at hgt
    rw [exec_tick_of_linked hl, if_neg (not_le.mpr hgt)]

/-! ## A silence of any length -/

/-- The state after `k` ticks without a byte, from AGE = 0 and a link that is up: AGE stops with the link (44_link_state
R152, R156). -/
def afterSilence (k : Nat) (s : State) : State :=
  { s with
    age := BitVec.ofNat 16 (min k (s.params.silenceLimit + 1))
    link := if k ≤ s.params.silenceLimit then s.link else .unavailable
    trace := s.trace ++ if k ≤ s.params.silenceLimit then [] else [.linkLost] }

theorem afterSilence_age_toNat (k : Nat) {s : State} (hL : s.params.silenceLimit ≤ 65000) :
    (afterSilence k s).age.toNat = min k (s.params.silenceLimit + 1) :=
  BitVec.toNat_ofNat .. |>.trans (Nat.mod_eq_of_lt (by omega))

theorem afterSilence_of_le {k : Nat} {s : State} (hk : k ≤ s.params.silenceLimit) :
    afterSilence k s = { s with age := BitVec.ofNat 16 k } := by
  rw [afterSilence, if_pos hk, if_pos hk, min_eq_left (by omega), List.append_nil]

theorem afterSilence_zero {s : State} (hage : s.age = 0) : afterSilence 0 s = s := by
  have hzero : BitVec.ofNat 16 0 = s.age := hage.symm
  rw [afterSilence_of_le (Nat.zero_le _), hzero]

theorem afterSilence_of_gt {k : Nat} {s : State} (hk : s.params.silenceLimit < k) :
    afterSilence k s =
      { s with age := BitVec.ofNat 16 (s.params.silenceLimit + 1), link := .unavailable,
               trace := s.trace ++ [.linkLost] } := by
  rw [afterSilence, if_neg (by omega), if_neg (by omega), min_eq_right hk]

/-- One more tick: below the limit it is counted, at the limit it loses the link, above it does nothing. -/
theorem exec_tick_afterSilence (k : Nat) {s : State} (hl : s.link ≠ .unavailable) (hL : s.params.silenceLimit ≤ 65000) :
    exec .tick (afterSilence k s) = .next (afterSilence (k + 1) s) := by
  by_cases hk : k ≤ s.params.silenceLimit
  · have hsucc : (BitVec.ofNat 16 k + 1 : BitVec 16) = BitVec.ofNat 16 (k + 1) := (BitVec.ofNat_add k 1).symm
    have hnat : (BitVec.ofNat 16 (k + 1)).toNat = k + 1 := BitVec.toNat_ofNat .. |>.trans (Nat.mod_eq_of_lt (by omega))
    rw [afterSilence_of_le hk, exec_tick_of_linked (s := { s with age := BitVec.ofNat 16 k }) hl]
    dsimp only
    rw [hsucc, hnat]
    by_cases hlt : k + 1 ≤ s.params.silenceLimit
    · rw [if_pos hlt, afterSilence_of_le hlt]
    · have hlast : k = s.params.silenceLimit := by omega
      rw [if_neg hlt, afterSilence_of_gt (by omega), hlast]
  · rw [afterSilence_of_gt (not_le.mp hk), afterSilence_of_gt (by omega)]
    exact exec_tick_of_unavailable rfl

theorem runOps_silence (k : Nat) {s : State} (hl : s.link ≠ .unavailable) (hage : s.age = 0)
    (hL : s.params.silenceLimit ≤ 65000) : runOps (List.replicate k .tick) s = .next (afterSilence k s) := by
  induction k with
  | zero => rw [afterSilence_zero hage]; rfl
  | succ k ih =>
    rw [List.replicate_succ', runOps_append ih]
    exact runOps_cons (exec_tick_afterSilence k hl hL)

/-- Settles O47, by induction on the ticks. -/
theorem linkIsLostExactlyOnce : Obligations.LinkIsLostExactlyOnce := fun k s hl hage hL =>
  ⟨afterSilence k s, runOps_silence k hl hage hL, rfl, rfl, afterSilence_age_toNat k hL, rfl⟩

/-! ## What an operation does to LINK and AGE -/

/-- The six things an operation that takes `s` to `t` can do to LINK and AGE, by its cause (44_link_state R151, R152, R155,
R157, 70_reset_and_hazards R210). -/
inductive LinkMove (s t : State) : Instr → Prop
  | kept {i : Instr} (hrx : ∀ b, i ≠ .rxb b) (hrst : i ≠ .reset) (hlink : t.link = s.link) (hage : t.age = s.age) :
      LinkMove s t i
  | received (b : Byte) (hlink : t.link = if s.link = .unavailable then .syncing else s.link) (hage : t.age = 0) :
      LinkMove s t (.rxb b)
  | accepted (hlink : t.link = .active) (hupdated : t.updated = true) (hage : t.age = s.age) : LinkMove s t .scan
  | counted (hup : s.link ≠ .unavailable) (hle : (s.age + 1).toNat ≤ s.params.silenceLimit) (hlink : t.link = s.link)
      (hage : t.age = s.age + 1) : LinkMove s t .tick
  | lost (hup : s.link ≠ .unavailable) (hgt : s.params.silenceLimit < (s.age + 1).toNat) (hlink : t.link = .unavailable)
      (hage : t.age = s.age + 1) (htrace : t.trace = s.trace ++ [.linkLost]) : LinkMove s t .tick
  | reset (hlink : t.link = .unavailable) (hage : t.age = 0) : LinkMove s t .reset

/-- A packet moves LINK only when its Timestamp is accepted, and never AGE. -/
theorem Finishes.link_age {c : PacketClass} {s t : State} (h : Finishes c s t) :
    t.age = s.age ∧ (t.link = s.link ∨ t.link = .active ∧ t.updated = true) := by
  refine ⟨by rw [h.frame], ?_⟩
  cases h with
  | rejected e => exact .inl rfl
  | accepted ts => exact .inr ⟨by rw [finishedAccepted, acceptTs_frame]; rfl, rfl⟩
  | relocked l => exact .inl rfl
  | unchanged => exact .inl rfl

theorem exec_scan_linkMove {s t : State} (h : exec .scan s = .next t) : LinkMove s t .scan := by
  have kept : t.link = s.link → t.age = s.age → LinkMove s t .scan := .kept nofun nofun
  obtain rfl | rfl | rfl | ⟨c, -, rfl⟩ | ⟨c, rd, pkt, plen, esc, -, -, -, ⟨-, rfl⟩ | hf⟩ := exec_scan_next h
  · exact kept rfl rfl
  · exact kept (endPoll_link s) (endPoll_age s)
  · exact kept rfl rfl
  · rw [recognise_eq] at kept ⊢
    exact kept rfl rfl
  · exact kept rfl rfl
  · obtain ⟨hage, hlink | ⟨hactive, hupdated⟩⟩ := hf.link_age
    · exact kept hlink hage
    · exact .accepted hactive hupdated hage

theorem exec_tick_linkMove {s t : State} (h : exec .tick s = .next t) : LinkMove s t .tick := by
  by_cases hl : s.link = .unavailable
  · rw [exec_tick_of_unavailable hl] at h
    cases h
    exact .kept nofun nofun rfl rfl
  · rw [exec_tick_of_linked hl] at h
    cases h
    split
    next hle => exact .counted hl hle rfl rfl
    next hgt => exact .lost hl (not_le.mp hgt) rfl rfl rfl

theorem exec_linkMove {i : Instr} {s t : State} (h : exec i s = .next t) : LinkMove s t i := by
  have signature : eventOf i = none → t.link = s.link ∧ t.age = s.age := by
    intro hev
    obtain rfl | ⟨c, -, rfl⟩ := exec_signature_next hev h
    · exact ⟨rfl, rfl⟩
    · rw [recognise_eq]; exact ⟨rfl, rfl⟩
  cases i with
  | scan => exact exec_scan_linkMove h
  | tick => exact exec_tick_linkMove h
  | rxb b => cases h; exact .received b rfl rfl
  | reset => cases h; exact .reset rfl rfl
  | poll => obtain ⟨-, rfl⟩ | ⟨-, rfl⟩ := exec_poll_next h <;> exact .kept nofun nofun rfl rfl
  | cfg n => cases h; exact .kept nofun nofun rfl rfl
  | pps =>
    obtain rfl | ⟨-, rfl⟩ := exec_pps_next h
    · exact .kept nofun nofun rfl rfl
    · refine .kept nofun nofun ?_ ?_ <;> rw [countdownStep_eq] <;> split <;> rfl
  | reserved6 => cases h; exact .kept nofun nofun rfl rfl
  | magTime w3 => exact .kept nofun nofun (signature rfl).1 (signature rfl).2
  | magStatus w3 => exact .kept nofun nofun (signature rfl).1 (signature rfl).2
  | trimble => exact .kept nofun nofun (signature rfl).1 (signature rfl).2

/-- No operation takes the link from ACTIVE back to SYNCING (44_link_state R157). -/
theorem LinkMove.not_syncing {i : Instr} {s t : State} (h : LinkMove s t i) (hs : s.link = .active) :
    t.link ≠ .syncing := by
  cases h with
  | kept _ _ hlink => simp [hlink, hs]
  | received b hlink => simp [hlink, hs]
  | accepted hlink => simp [hlink]
  | counted _ _ hlink => simp [hlink, hs]
  | lost _ _ hlink => simp [hlink]
  | reset hlink => simp [hlink]

/-- Settles O49, cause by cause. -/
theorem linkTransitions : Obligations.LinkTransitions := by
  intro i s t h
  have hmove := exec_linkMove h
  refine ⟨?_, hmove.not_syncing⟩
  cases hmove with
  | kept _ _ hlink => exact .inl hlink
  | received b hlink =>
    by_cases hs : s.link = .unavailable
    · exact .inr (.inl ⟨⟨b, rfl⟩, hs, hlink.trans (if_pos hs)⟩)
    · exact .inl (hlink.trans (if_neg hs))
  | accepted hlink hupdated => exact .inr (.inr (.inl ⟨rfl, hlink, hupdated⟩))
  | counted _ _ hlink => exact .inl hlink
  | lost hup hgt hlink _ htrace => exact .inr (.inr (.inr (.inl ⟨rfl, hup, hlink, hgt, htrace⟩)))
  | reset hlink => exact .inr (.inr (.inr (.inr ⟨rfl, hlink⟩)))

/-! ## AGE -/

theorem le_lateAccepted {i : Instr} (hrx : ∀ b, i ≠ .rxb b) (hrst : i ≠ .reset) (a : Nat) (s t : State) :
    a ≤ lateAccepted a i s t := by
  cases i with
  | rxb b => exact absurd rfl (hrx b)
  | reset => exact absurd rfl hrst
  | scan =>
    rw [lateAccepted]
    split
    · exact Nat.le_succ a
    · exact le_refl a
  | _ => exact le_refl a

theorem exec_ageOk {i : Instr} {s t : State} (hL : s.params.silenceLimit ≤ 65000) (hs : s.ageOk) (h : exec i s = .next t)
    (hi : i ≠ .scan ∨ s.link ≠ .unavailable ∨ t.link = s.link) : t.ageOk := by
  rw [State.ageOk, (exec_params_input h).1]
  cases exec_linkMove h with
  | kept _ _ hlink hage => rwa [hlink, hage]
  | received b _ hage => exact .inl (by rw [hage]; exact Nat.zero_le _)
  | accepted hlink _ hage =>
    rw [hage]
    refine hs.imp_right fun ⟨hmax, hun⟩ => ⟨hmax, ?_⟩
    obtain hne | hup | hsame := hi
    · exact absurd rfl hne
    · exact absurd hun hup
    · exact hsame.trans hun
  | counted _ hle _ hage => exact .inl (by rwa [hage])
  | lost hup hgt hlink hage =>
    have hbelow : s.age.toNat ≤ s.params.silenceLimit := hs.resolve_right fun hmax => hup hmax.2
    rw [age_succ_toNat (by omega)] at hgt
    rw [hage, age_succ_toNat (by omega)]
    exact .inr ⟨by omega, hlink⟩
  | reset _ hage => exact .inl (by rw [hage]; exact Nat.zero_le _)

theorem exec_ageCounted {a : Nat} {i : Instr} {s t : State} (ha : s.params.silenceLimit + 1 + a < 65536)
    (hs : s.ageCounted a) (h : exec i s = .next t) : t.ageCounted (lateAccepted a i s t) := by
  rw [State.ageCounted, (exec_params_input h).1]
  cases exec_linkMove h with
  | kept hrx hrst hlink hage =>
    have hle := le_lateAccepted hrx hrst a s t
    rw [hlink, hage]
    exact hs.imp_right fun hbound => by omega
  | received b _ hage => exact .inl (by rw [hage]; exact Nat.zero_le _)
  | accepted hlink _ hage =>
    rw [hage, hlink, if_neg Link.noConfusion, lateAccepted, hlink]
    refine hs.imp_right fun hbound => ?_
    by_cases hun : s.link = .unavailable
    · rw [if_pos hun] at hbound
      rw [if_pos ⟨hun, rfl⟩]
      omega
    · rw [if_neg hun] at hbound
      rwa [if_neg fun hlate => hun hlate.1]
  | counted _ hle _ hage => exact .inl (by rwa [hage])
  | lost hup hgt hlink hage =>
    rw [State.ageCounted, if_neg hup] at hs
    rw [hage, age_succ_toNat (by omega), if_pos hlink, lateAccepted]
    exact .inr (by omega)
  | reset _ hage => exact .inl (by rw [hage]; exact Nat.zero_le _)

/-- Settles O48. -/
theorem ageStaysBounded : Obligations.AgeStaysBounded :=
  ⟨fun _ _ _ hL hs h hi => exec_ageOk hL hs h hi, fun _ _ _ _ ha hs h => exec_ageCounted ha hs h⟩

/-! ## ACCEPT_TS -/

/-- A Timestamp finds the pulse of its second missing: the countdown is still ENABLED (45_countdown R170, R171). -/
abbrev missesPulse (s : State) : Prop := s.explen ≠ 0 ∧ s.cd = .enabled

/-- The missed pulse is the last of the countdown, so that MISSED_PULSE emits TRIGGER (45_countdown R168, R171). -/
abbrev missesLastPulse (s : State) : Prop := missesPulse s ∧ s.remaining = 1

/-- A Timestamp ends the wait for it: after a pulse, or when it is the aligned one that SYNCING waits for (45_countdown
R170). -/
abbrev enablesCountdown (ts : Timestamp) (s : State) : Prop :=
  s.explen ≠ 0 ∧ (s.cd = .triggered ∨ s.cd = .syncing ∧ ts.seconds.toNat % s.explen.toNat = 0)

theorem missedPulse_eq (s : State) :
    missedPulse s =
      if s.remaining = 1 then
        { s with remaining := s.explen, recordSync := true, trace := s.trace ++ [.dbgMissedPulse] ++ [.trigger] }
      else { s with remaining := s.remaining - 1, trace := s.trace ++ [.dbgMissedPulse] } :=
  countdownStep_eq (emit .dbgMissedPulse s)

theorem cdOnTs_of_missesPulse (ts : Timestamp) {s : State} (h : missesPulse s) : cdOnTs ts s = missedPulse s := by
  obtain ⟨he, hcd⟩ := h
  rw [cdOnTs, if_pos he, hcd]

theorem cdOnTs_of_enablesCountdown {ts : Timestamp} {s : State} (h : enablesCountdown ts s) :
    cdOnTs ts s = { s with cd := .enabled } := by
  obtain ⟨he, hcd | ⟨hcd, ha⟩⟩ := h
  · rw [cdOnTs, if_pos he, hcd]
  · rw [cdOnTs, if_pos he, hcd]
    exact if_pos (beq_iff_eq.mpr ha)

theorem cdOnTs_of_neither {ts : Timestamp} {s : State} (hm : ¬ missesPulse s) (he : ¬ enablesCountdown ts s) :
    cdOnTs ts s = s := by
  by_cases h0 : s.explen = 0
  · rw [cdOnTs, if_neg (not_not.mpr h0)]
  · rw [cdOnTs, if_pos h0]
    cases hcd : s.cd with
    | triggered => exact absurd ⟨h0, .inl hcd⟩ he
    | enabled => exact absurd ⟨h0, hcd⟩ hm
    | syncing => exact if_neg fun ha => he ⟨h0, .inr ⟨hcd, beq_iff_eq.mp ha⟩⟩

theorem not_enablesCountdown_of_missesPulse (ts : Timestamp) {s : State} (h : missesPulse s) :
    ¬ enablesCountdown ts s := by
  simp [enablesCountdown, h.2]

/-- CD_ON_TS as one update. -/
theorem cdOnTs_eq (ts : Timestamp) (s : State) :
    cdOnTs ts s =
      { s with
        cd := if enablesCountdown ts s then .enabled else s.cd
        remaining := if missesLastPulse s then s.explen else if missesPulse s then s.remaining - 1 else s.remaining
        recordSync := s.recordSync || decide (missesLastPulse s)
        trace := s.trace ++ (if missesPulse s then [.dbgMissedPulse] else []) ++
          (if missesLastPulse s then [.trigger] else []) } := by
  by_cases hm : missesPulse s
  · have he := not_enablesCountdown_of_missesPulse ts hm
    rw [cdOnTs_of_missesPulse ts hm, missedPulse_eq, if_pos hm, if_pos hm, if_neg he]
    by_cases hr : s.remaining = 1
    · have hlast : missesLastPulse s := ⟨hm, hr⟩
      rw [if_pos hr, if_pos hlast, if_pos hlast, decide_eq_true hlast, Bool.or_true]
    · have hlast : ¬ missesLastPulse s := fun h => hr h.2
      rw [if_neg hr, if_neg hlast, if_neg hlast, decide_eq_false hlast, Bool.or_false, List.append_nil]
  · have hlast : ¬ missesLastPulse s := fun h => hm h.1
    rw [if_neg hlast, if_neg hm, if_neg hm, if_neg hlast, decide_eq_false hlast, Bool.or_false, List.append_nil,
      List.append_nil]
    by_cases he : enablesCountdown ts s
    · rw [cdOnTs_of_enablesCountdown he, if_pos he]
    · rw [cdOnTs_of_neither hm he, if_neg he]

/-- Settles O50: CUR_TS is written first, so that the latch, which a missed last pulse may have asked for just before, takes
this Timestamp (44_link_state R155). -/
theorem acceptanceOfATimestamp : Obligations.AcceptanceOfATimestamp := by
  intro ts s missed fires latches
  rw [acceptTs, latchSync_eq, cdOnTs_eq]
  by_cases hlatch : latches
  · have hrec : (s.recordSync || decide fires) = true := by simpa [latches] using hlatch
    rw [if_pos hrec, if_pos hlatch, if_pos hlatch]
  · have hrec : (s.recordSync || decide fires) = false := by simpa [latches] using hlatch
    rw [if_neg (ne_true_of_eq_false hrec), if_neg hlatch, if_neg hlatch, List.append_nil, ← hrec]

end Sys2Proof.Machine
end

section
/-! PROOFS. The exposure countdown (45_countdown R165 to R176): a pulse by its three cases, a Timestamp with the synchronizer
disabled, what an operation does to CD, and the seconds after alignment. -/

namespace Sys2Proof.Machine

/-! ## CFG and PPS -/

/-- Settles O51. -/
theorem cfgSetsTheExposureLength : Obligations.CfgSetsTheExposureLength :=
  ⟨decodeEvent_eventWord 2, fun _ _ => rfl⟩

/-- A pulse counts: the synchronizer enabled and aligned, the link active (45_countdown R167). -/
abbrev countsPulse (s : State) : Prop := s.explen ≠ 0 ∧ s.link = .active ∧ s.cd ≠ .syncing

theorem exec_pps_of_not_countsPulse {s : State} (h : ¬ countsPulse s) : exec .pps s = .next s :=
  congrArg Host.Outcome.next (if_neg h)

theorem exec_pps_of_countsPulse {s : State} (h : countsPulse s) :
    exec .pps s = .next { countdownStep s with cd := .triggered } :=
  congrArg Host.Outcome.next (if_pos h)

theorem exec_pps_of_remaining_ne_one {s : State} (h : countsPulse s) (hr : s.remaining ≠ 1) :
    exec .pps s = .next { s with remaining := s.remaining - 1, cd := .triggered } := by
  rw [exec_pps_of_countsPulse h, countdownStep_eq, if_neg hr]

theorem exec_pps_of_remaining_eq_one {s : State} (h : countsPulse s) (hr : s.remaining = 1) :
    exec .pps s = .next
      { s with remaining := s.explen, recordSync := true, cd := .triggered, trace := s.trace ++ [.trigger] } := by
  rw [exec_pps_of_countsPulse h, countdownStep_eq, if_pos hr]

/-- Settles O52. -/
theorem ppsCountsThePulse : Obligations.PpsCountsThePulse :=
  ⟨decodeEvent_eventWord 4, fun _ =>
    ⟨exec_pps_of_not_countsPulse, exec_pps_of_remaining_ne_one, exec_pps_of_remaining_eq_one⟩⟩

/-! ## A disabled synchronizer -/

theorem cdOnTs_of_disabled (ts : Timestamp) {s : State} (h : s.explen = 0) : cdOnTs ts s = s :=
  cdOnTs_of_neither (fun hm => hm.1 h) (fun he => he.1 h)

theorem acceptTs_of_disabled (ts : Timestamp) {s : State} (h : s.explen = 0) :
    acceptTs ts s = { latchSync { s with curTs := ts, link := .active } with updated := true } := by
  rw [acceptTs, cdOnTs_of_disabled ts (s := { s with curTs := ts, link := .active }) h]

/-- Settles O53: with EXPLEN = 0 an acceptance is the latch alone. -/
theorem disabledSynchronizerDoesNothing : Obligations.DisabledSynchronizerDoesNothing := by
  intro ts s h
  refine ⟨exec_pps_of_not_countsPulse fun hc => hc.1 h, ?_⟩
  rw [acceptTs_of_disabled ts h, latchSync_eq]
  cases hrec : s.recordSync with
  | true => exact ⟨rfl, rfl, rfl, rfl⟩
  | false => exact ⟨rfl, rfl, (List.append_nil _).symm, rfl⟩

/-! ## What an operation does to CD -/

theorem acceptTs_cd (ts : Timestamp) (s : State) :
    (acceptTs ts s).cd = if enablesCountdown ts s then .enabled else s.cd :=
  congrArg State.cd (acceptanceOfATimestamp ts s)

/-- The four things an operation that takes `s` to `t` can do to CD, by its cause (45_countdown R166, R167, R170, R174,
70_reset_and_hazards R210). -/
inductive CountdownMove (s t : State) : Instr → Prop
  | kept {i : Instr} (hcd : t.cd = s.cd) : CountdownMove s t i
  | restarted {i : Instr} (hi : (∃ n, i = .cfg n) ∨ i = .reset) (hcd : t.cd = .syncing) : CountdownMove s t i
  | counted (hcounts : countsPulse s) (hcd : t.cd = .triggered) : CountdownMove s t .pps
  | enabled (henables : enablesCountdown t.curTs s) (hcd : t.cd = .enabled) : CountdownMove s t .scan

/-- A packet moves CD only when its Timestamp is accepted and ends the wait for it. -/
theorem Finishes.cd {c : PacketClass} {s t : State} (h : Finishes c s t) :
    t.cd = s.cd ∨ enablesCountdown t.curTs s ∧ t.cd = .enabled := by
  cases h with
  | rejected e => exact .inl rfl
  | accepted ts =>
    have hcur : (finishedAccepted ts s).curTs = ts := congrArg State.curTs (acceptTs_frame ts s)
    have hcd : (finishedAccepted ts s).cd = if enablesCountdown ts s then .enabled else s.cd := acceptTs_cd ts s
    rw [hcur, hcd]
    by_cases he : enablesCountdown ts s
    · exact .inr ⟨he, if_pos he⟩
    · exact .inl (if_neg he)
  | relocked l => exact .inl rfl
  | unchanged => exact .inl rfl

theorem recognise_cd (c : PacketClass) (s : State) : (recognise c s).cd = s.cd := by
  rw [recognise_eq]

theorem exec_scan_countdownMove {s t : State} (h : exec .scan s = .next t) : CountdownMove s t .scan := by
  obtain rfl | rfl | rfl | ⟨c, -, rfl⟩ | ⟨c, rd, pkt, plen, esc, -, -, -, ⟨-, rfl⟩ | hf⟩ := exec_scan_next h
  · exact .kept rfl
  · exact .kept (endPoll_cd s)
  · exact .kept rfl
  · exact .kept (recognise_cd c s)
  · exact .kept rfl
  · obtain hcd | ⟨henables, hcd⟩ := hf.cd
    · exact .kept hcd
    · exact .enabled henables hcd

theorem exec_pps_countdownMove {s t : State} (h : exec .pps s = .next t) : CountdownMove s t .pps := by
  by_cases hc : countsPulse s
  · rw [exec_pps_of_countsPulse hc] at h
    cases h
    exact .counted hc rfl
  · rw [exec_pps_of_not_countsPulse hc] at h
    cases h
    exact .kept rfl

theorem exec_countdownMove {i : Instr} {s t : State} (h : exec i s = .next t) : CountdownMove s t i := by
  have signature : eventOf i = none → t.cd = s.cd := by
    intro hev
    obtain rfl | ⟨c, -, rfl⟩ := exec_signature_next hev h
    · rfl
    · exact recognise_cd c s
  cases i with
  | scan => exact exec_scan_countdownMove h
  | pps => exact exec_pps_countdownMove h
  | cfg n => cases h; exact .restarted (.inl ⟨n, rfl⟩) rfl
  | reset => cases h; exact .restarted (.inr rfl) rfl
  | poll => obtain ⟨-, rfl⟩ | ⟨-, rfl⟩ := exec_poll_next h <;> exact .kept rfl
  | tick => obtain ⟨-, rfl⟩ | ⟨-, -, rfl⟩ | ⟨-, -, rfl⟩ := exec_tick_next h <;> exact .kept rfl
  | rxb b => cases h; exact .kept rfl
  | reserved6 => cases h; exact .kept rfl
  | magTime w3 => exact .kept (signature rfl)
  | magStatus w3 => exact .kept (signature rfl)
  | trimble => exact .kept (signature rfl)

/-- Only CFG and RESET give up the alignment (45_countdown R175). -/
theorem CountdownMove.syncing {i : Instr} {s t : State} (h : CountdownMove s t i) (ht : t.cd = .syncing) :
    s.cd = .syncing ∨ (∃ n, i = .cfg n) ∨ i = .reset := by
  cases h with
  | kept hcd => exact .inl (hcd.symm.trans ht)
  | restarted hi => exact .inr hi
  | counted _ hcd => rw [hcd] at ht; cases ht
  | enabled _ hcd => rw [hcd] at ht; cases ht

/-- Settles O55, cause by cause: a pulse that counts finds CD at ENABLED and moves it, or at TRIGGERED and leaves it. -/
theorem countdownTransitions : Obligations.CountdownTransitions := by
  intro i s t h
  have hmove := exec_countdownMove h
  refine ⟨?_, hmove.syncing⟩
  cases hmove with
  | kept hcd => exact .inl hcd
  | restarted hi hcd => exact .inr (.inl ⟨hi, hcd⟩)
  | counted hcounts hcd =>
    obtain ⟨he, hlink, haligned⟩ := hcounts
    cases hs : s.cd with
    | syncing => exact absurd hs haligned
    | enabled => exact .inr (.inr (.inr (.inl ⟨rfl, he, hlink, rfl, hcd⟩)))
    | triggered => exact .inl hcd
  | enabled henables hcd =>
    obtain ⟨he, htriggered | ⟨hsyncing, hmod⟩⟩ := henables
    · exact .inr (.inr (.inr (.inr ⟨rfl, he, htriggered, hcd⟩)))
    · exact .inr (.inr (.inl ⟨rfl, he, hsyncing, hcd, hmod⟩))

/-! ## The seconds after alignment -/

/-- Accepting a Timestamp that ends the countdown's wait arms it and is otherwise the latch alone. -/
theorem acceptTs_of_enablesCountdown {ts : Timestamp} {s : State} (h : enablesCountdown ts s) :
    acceptTs ts s = { latchSync { s with curTs := ts, link := .active, cd := .enabled } with updated := true } := by
  rw [acceptTs, cdOnTs_of_enablesCountdown (s := { s with curTs := ts, link := .active }) h]

theorem acceptTs_trace_of_enablesCountdown {ts : Timestamp} {s : State} (h : enablesCountdown ts s) :
    (acceptTs ts s).trace = s.trace ++ if s.recordSync then [.syncTs ts] else [] := by
  rw [acceptTs_of_enablesCountdown h, latchSync_eq]
  cases s.recordSync with
  | true => rfl
  | false => exact (List.append_nil _).symm

/-- `k` seconds after alignment with exposure length `n`, each with its pulse and its Timestamp: the countdown is armed, no
latch is owed, and REMAINING is the number of pulses to the next multiple of `n` (45_countdown R173). -/
structure Armed (n : Byte) (k : Nat) (s : State) : Prop where
  explen : s.explen = n
  link : s.link = .active
  cd : s.cd = .enabled
  recordSync : s.recordSync = false
  remaining : s.remaining.toNat = n.toNat - k % n.toNat

theorem Armed.countsPulse {n : Byte} {k : Nat} {s : State} (h : Armed n k s) (hn : n ≠ 0) : countsPulse s :=
  ⟨h.explen ▸ hn, h.link, h.cd ▸ Countdown.noConfusion⟩

/-- The pulse that takes REMAINING to zero is the one of a second that `n` divides. -/
theorem Armed.remaining_eq_one_iff {n : Byte} {k : Nat} {s : State} (h : Armed n k s) (hn : n ≠ 0) :
    s.remaining = 1 ↔ (k + 1) % n.toNat = 0 := by
  obtain ⟨m, hm⟩ : ∃ m, n.toNat = m + 1 := Nat.exists_eq_succ_of_ne_zero (by bv_omega)
  have hlt : k % (m + 1) < m + 1 := Nat.mod_lt k m.succ_pos
  have hrem := h.remaining
  rw [hm] at hrem ⊢
  rw [Nat.succ_mod_succ_eq_zero_iff, ← BitVec.toNat_inj, hrem]
  exact ⟨fun h1 => by bv_omega, fun h1 => by bv_omega⟩

/-- In every other second REMAINING drops by one. -/
theorem Armed.remaining_sub_one {n : Byte} {k : Nat} {s : State} (h : Armed n k s) (hn : n ≠ 0) (hr : s.remaining ≠ 1) :
    (s.remaining - 1).toNat = n.toNat - (k + 1) % n.toNat := by
  have hpos : 0 < n.toNat := by bv_omega
  have hmod : k % n.toNat < n.toNat := Nat.mod_lt k hpos
  have hrem := h.remaining
  have hlt : k % n.toNat + 1 < n.toNat := by bv_omega
  have hsucc : (k + 1) % n.toNat = k % n.toNat + 1 := (Nat.mod_add_mod ..).symm.trans (Nat.mod_eq_of_lt hlt)
  rw [hsucc]
  bv_omega

/-- A Timestamp that ends the countdown's wait leaves it armed, with any latch owed before performed. -/
theorem armed_acceptTs {n : Byte} {k : Nat} {ts : Timestamp} {s : State} (he : s.explen = n)
    (henables : enablesCountdown ts s) (hrem : s.remaining.toNat = n.toNat - k % n.toNat) :
    Armed n k (acceptTs ts s) := by
  rw [acceptTs_of_enablesCountdown henables, latchSync_eq]
  cases s.recordSync with
  | true => exact ⟨he, rfl, rfl, rfl, hrem⟩
  | false => exact ⟨he, rfl, rfl, rfl, hrem⟩

/-- The next second's pulse counts, and reaches zero exactly when `n` divides the second's number. -/
theorem Armed.pulse {n : Byte} {k : Nat} {s : State} (h : Armed n k s) (hn : n ≠ 0) :
    ∃ t, exec .pps s = .next t ∧ t.explen = n ∧ t.cd = .triggered ∧
      t.remaining.toNat = n.toNat - (k + 1) % n.toNat ∧ t.recordSync = decide ((k + 1) % n.toNat = 0) ∧
      t.trace = s.trace ++ if (k + 1) % n.toNat = 0 then [.trigger] else [] := by
  have hcounts := h.countsPulse hn
  by_cases hlast : s.remaining = 1
  · have hmod := (h.remaining_eq_one_iff hn).mp hlast
    refine ⟨_, exec_pps_of_remaining_eq_one hcounts hlast, h.explen, rfl, ?_, (decide_eq_true hmod).symm, ?_⟩
    · rw [hmod]
      exact congrArg BitVec.toNat h.explen
    · rw [if_pos hmod]
  · have hmod := mt (h.remaining_eq_one_iff hn).mpr hlast
    refine ⟨_, exec_pps_of_remaining_ne_one hcounts hlast, h.explen, rfl, h.remaining_sub_one hn hlast, ?_, ?_⟩
    · exact h.recordSync.trans (decide_eq_false hmod).symm
    · rw [if_neg hmod, List.append_nil]

/-- One second on: TRIGGER on its pulse and the report of its Timestamp exactly when `n` divides its number. -/
theorem Armed.second {n : Byte} {k : Nat} {s : State} (h : Armed n k s) (hn : n ≠ 0) (ts : Timestamp) :
    ∃ t, exec .pps s = .next t ∧ Armed n (k + 1) (acceptTs ts t) ∧
      (acceptTs ts t).trace = s.trace ++ if (k + 1) % n.toNat = 0 then [.trigger, .syncTs ts] else [] := by
  obtain ⟨t, hpps, he, hcd, hrem, hrec, htrace⟩ := h.pulse hn
  have henables : enablesCountdown ts t := ⟨he ▸ hn, .inl hcd⟩
  refine ⟨t, hpps, armed_acceptTs he henables hrem, ?_⟩
  rw [acceptTs_trace_of_enablesCountdown henables, htrace, hrec, List.append_assoc]
  by_cases hmod : (k + 1) % n.toNat = 0 <;> simp [hmod]

/-- Any number of seconds on, by induction on them. -/
theorem Armed.seconds {n : Byte} {k : Nat} {s : State} (h : Armed n k s) (hn : n ≠ 0) (tss : List Timestamp) :
    ∃ t, runSeconds tss s = .next t ∧ Armed n (k + tss.length) t ∧
      t.trace = s.trace ++ expectedEvents n.toNat k tss := by
  induction tss generalizing k s with
  | nil => exact ⟨s, rfl, h, (List.append_nil _).symm⟩
  | cons ts rest ih =>
    obtain ⟨u, hpps, harmed, htrace⟩ := h.second hn ts
    obtain ⟨t, hrun, hend, hevents⟩ := ih harmed
    refine ⟨t, ?_, ?_, ?_⟩
    · rw [runSeconds, hpps]
      exact hrun
    · rwa [List.length_cons, Nat.add_comm rest.length, ← Nat.add_assoc]
    · rw [hevents, htrace, expectedEvents, List.append_assoc]

/-- Settles O54: alignment arms the countdown at 0 seconds, and every second keeps it armed. -/
theorem triggersEveryNPulses : Obligations.TriggersEveryNPulses := by
  intro n ts tss s hn hts
  have hstart : n.toNat = n.toNat - 0 % n.toNat := by rw [Nat.zero_mod, Nat.sub_zero]
  have harmed : Armed n 0 (acceptTs ts { s with explen := n, remaining := n, cd := .syncing }) :=
    armed_acceptTs rfl ⟨hn, .inr ⟨rfl, hts⟩⟩ hstart
  obtain ⟨t, hrun, hend, htrace⟩ := harmed.seconds hn tss
  rw [Nat.zero_add] at hend
  exact ⟨_, t, rfl, harmed.cd, BitVec.eq_of_toNat_eq (harmed.remaining.trans hstart.symm), hrun, htrace, hend.remaining,
    hend.cd, hend.link, hend.recordSync⟩

end Sys2Proof.Machine
end

section
/-! PROOFS. The events of one operation (60_exceptions R189, R192, R193, R201, R202): what emits them, how many there can be,
and what a report of a bad frame leaves alone. -/

namespace Sys2Proof.Machine

/-- Settles O8. -/
theorem stepWithoutOperationHolds : Obligations.StepWithoutOperationHolds := fun _ => step_of_nil

/-! ## The events of ACCEPT_TS -/

/-- What accepting a Timestamp emits before its STATUS: the missed pulse, the TRIGGER of a last one, the latch
(45_countdown R170 to R172). -/
def acceptEvents (ts : Timestamp) (s : State) : List OutEvent :=
  (if missesPulse s then [.dbgMissedPulse] else []) ++ (if missesLastPulse s then [.trigger] else []) ++
    (if s.recordSync = true ∨ missesLastPulse s then [.syncTs ts] else [])

theorem acceptTs_trace_eq (ts : Timestamp) (s : State) : (acceptTs ts s).trace = s.trace ++ acceptEvents ts s := by
  have h := congrArg State.trace (acceptanceOfATimestamp ts s)
  simpa only [acceptEvents, List.append_assoc] using h

/-- A missed last pulse asks for the latch too, so it gives all three events; without one TRIGGER is missing. -/
theorem acceptEvents_cases (ts : Timestamp) (s : State) :
    acceptEvents ts s = [.dbgMissedPulse, .trigger, .syncTs ts] ∨ (acceptEvents ts s).length ≤ 2 := by
  by_cases hlast : missesLastPulse s
  · left
    rw [acceptEvents, if_pos hlast.1, if_pos hlast, if_pos (.inr hlast)]
    rfl
  · right
    rw [acceptEvents, if_neg hlast]
    split_ifs <;> simp

/-! ## What emits the events of an operation -/

/-- The events that an operation emits on its way from `s` to `t`, by what emits them. An error report of the decoders comes
with the state it leaves: RD and the scratch moved on, the packet reset, the poll call ended, the rest as in `s`
(60_exceptions R192, R193). -/
inductive Emits (s t : State) : Instr → List OutEvent → Prop
  | nothing {i : Instr} : Emits s t i []
  | skip {i : Instr} (n : Byte) : Emits s t i [.dbgSkip n]
  | lost : Emits s t .tick [.linkLost]
  | pulse : Emits s t .pps [.trigger]
  | ended (updated : Bool) (ts : Timestamp) (link : Link) : Emits s t .scan (statusOwed updated ts link)
  | accepted : Emits s t .scan (acceptEvents t.curTs s ++ [.status t.curTs .active])
  | rejected (e : OutEvent)
      (hframe : t = { s with rd := t.rd, pkt := t.pkt, busy := false, ptype := .unknown, plen := 0, esc := false,
                             trace := t.trace }) :
      Emits s t .scan (e :: statusOwed s.updated s.curTs s.link)

theorem recognise_emits (c : PacketClass) (s : State) (i : Instr) :
    ∃ new, (recognise c s).trace = s.trace ++ new ∧ Emits s (recognise c s) i new := by
  refine ⟨_, congrArg State.trace (recognise_eq c s), ?_⟩
  split
  · exact .skip s.skip
  · exact .nothing

/-- The end of a packet, whose decoder step moved RD and the packet in progress before it. -/
theorem Finishes.emits {c : PacketClass} {s t : State} {rd : Byte} {pkt : Memory} {plen : BitVec 5} {esc : Bool}
    (h : Finishes c { s with rd := rd, pkt := pkt, plen := plen, esc := esc } t) :
    ∃ new, t.trace = s.trace ++ new ∧ Emits s t .scan new := by
  cases h with
  | rejected e => exact ⟨_, rfl, .rejected e rfl⟩
  | accepted ts =>
    generalize hu : ({ s with rd := rd, pkt := pkt, plen := plen, esc := esc } : State) = u
    have hevents : acceptEvents ts u = acceptEvents ts s := by rw [← hu]; rfl
    have hcur : (finishedAccepted ts u).curTs = ts := congrArg State.curTs (acceptTs_frame ts u)
    have htrace : (finishedAccepted ts u).trace = s.trace ++ (acceptEvents ts s ++ [.status ts .active]) := by
      calc (acceptTs ts u).trace ++ [.status ts .active]
          = u.trace ++ acceptEvents ts s ++ [.status ts .active] := by rw [acceptTs_trace_eq, hevents]
        _ = s.trace ++ (acceptEvents ts s ++ [.status ts .active]) := by rw [← hu, List.append_assoc]
    have haccepted : Emits s (finishedAccepted ts u) .scan _ := .accepted
    rw [hcur] at haccepted
    exact ⟨_, htrace, haccepted⟩
  | relocked l => exact ⟨_, rfl, .ended true _ _⟩
  | unchanged => exact ⟨_, rfl, .ended _ _ _⟩

theorem exec_scan_emits {s t : State} (h : exec .scan s = .next t) :
    ∃ new, t.trace = s.trace ++ new ∧ Emits s t .scan new := by
  have quiet : t.trace = s.trace → ∃ new, t.trace = s.trace ++ new ∧ Emits s t .scan new :=
    fun ht => ⟨[], by rw [ht, List.append_nil], .nothing⟩
  obtain rfl | rfl | rfl | ⟨c, -, rfl⟩ | ⟨c, rd, pkt, plen, esc, -, -, -, ⟨-, rfl⟩ | hf⟩ := exec_scan_next h
  · exact quiet rfl
  · exact ⟨_, congrArg State.trace (endPoll_eq s), .ended _ _ _⟩
  · exact quiet rfl
  · exact recognise_emits c s .scan
  · exact quiet rfl
  · exact hf.emits

/-- All that an operation can emit. -/
theorem exec_emits {i : Instr} {s t : State} (h : exec i s = .next t) :
    ∃ new, t.trace = s.trace ++ new ∧ Emits s t i new := by
  have quiet : t.trace = s.trace → ∃ new, t.trace = s.trace ++ new ∧ Emits s t i new :=
    fun ht => ⟨[], by rw [ht, List.append_nil], .nothing⟩
  have signature : eventOf i = none → ∃ new, t.trace = s.trace ++ new ∧ Emits s t i new := by
    intro hev
    obtain rfl | ⟨c, -, rfl⟩ := exec_signature_next hev h
    · exact quiet rfl
    · exact recognise_emits c s i
  cases i with
  | scan => exact exec_scan_emits h
  | poll => obtain ⟨-, rfl⟩ | ⟨-, rfl⟩ := exec_poll_next h <;> exact quiet rfl
  | cfg n => cases h; exact quiet rfl
  | tick =>
    obtain ⟨-, rfl⟩ | ⟨-, -, rfl⟩ | ⟨-, -, rfl⟩ := exec_tick_next h
    · exact quiet rfl
    · exact ⟨_, rfl, .lost⟩
    · exact quiet rfl
  | pps =>
    obtain rfl | ⟨-, rfl⟩ := exec_pps_next h
    · exact quiet rfl
    · rw [countdownStep_eq] at quiet ⊢
      split
      · exact ⟨_, rfl, .pulse⟩
      · exact ⟨[], (List.append_nil _).symm, .nothing⟩
  | rxb b => cases h; exact quiet rfl
  | reserved6 => cases h; exact quiet rfl
  | reset => cases h; exact quiet rfl
  | magTime w3 => exact signature rfl
  | magStatus w3 => exact signature rfl
  | trimble => exact signature rfl

/-! ## Reports of a bad frame -/

/-- The events that report a malformed packet or a checksum mismatch (60_exceptions R190). -/
abbrev reportsBadFrame (e : OutEvent) : Prop :=
  e.errorKind = some .malformedPacket ∨ e.errorKind = some .checksumMismatch

theorem not_reportsBadFrame_of_mem_statusOwed {e : OutEvent} {updated : Bool} {ts : Timestamp} {link : Link}
    (h : e ∈ statusOwed updated ts link) : ¬ reportsBadFrame e := by
  have he : e = .status ts link := by
    simp only [statusOwed, List.mem_ite_nil_right, List.mem_singleton] at h
    exact h.2
  simp [he, OutEvent.errorKind]

theorem not_reportsBadFrame_of_mem_acceptEvents {e : OutEvent} {ts : Timestamp} {s : State}
    (h : e ∈ acceptEvents ts s) : ¬ reportsBadFrame e := by
  simp only [acceptEvents, List.mem_append, List.mem_ite_nil_right, List.mem_singleton] at h
  obtain (⟨-, rfl⟩ | ⟨-, rfl⟩) | ⟨-, rfl⟩ := h <;> simp [OutEvent.errorKind]

/-- Only a decoder that rejects its packet reports a bad frame. -/
theorem Emits.frame_of_reportsBadFrame {i : Instr} {s t : State} {new : List OutEvent} {e : OutEvent}
    (h : Emits s t i new) (hmem : e ∈ new) (hbad : reportsBadFrame e) :
    i = .scan ∧
      t = { s with rd := t.rd, pkt := t.pkt, busy := false, ptype := .unknown, plen := 0, esc := false,
                   trace := t.trace } := by
  cases h with
  | nothing => cases hmem
  | skip n => simp [List.mem_singleton.mp hmem, reportsBadFrame, OutEvent.errorKind] at hbad
  | lost => simp [List.mem_singleton.mp hmem, reportsBadFrame, OutEvent.errorKind] at hbad
  | pulse => simp [List.mem_singleton.mp hmem, reportsBadFrame, OutEvent.errorKind] at hbad
  | ended updated ts link => exact absurd hbad (not_reportsBadFrame_of_mem_statusOwed hmem)
  | accepted =>
    obtain hmem | hmem := List.mem_append.mp hmem
    · exact absurd hbad (not_reportsBadFrame_of_mem_acceptEvents hmem)
    · exact absurd hbad (not_reportsBadFrame_of_mem_statusOwed (updated := true) hmem)
  | rejected e hframe => exact ⟨rfl, hframe⟩

/-- Settles O45: the events emitted are the ones listed in `Emits`, and only a rejected packet is among their causes. -/
theorem rejectedFramesChangeNothingElse : Obligations.RejectedFramesChangeNothingElse := by
  intro i s t new h htrace hreport
  obtain ⟨new', htrace', hemits⟩ := exec_emits h
  obtain rfl : new = new' := List.append_cancel_left (htrace.symm.trans htrace')
  obtain ⟨e, hmem, hbad⟩ : ∃ e ∈ new, reportsBadFrame e := by
    obtain ⟨bytes, hmem⟩ | ⟨c, e, bytes, hmem⟩ := hreport
    · exact ⟨_, hmem, .inl rfl⟩
    · exact ⟨_, hmem, .inr rfl⟩
  obtain ⟨hscan, hframe⟩ := hemits.frame_of_reportsBadFrame hmem hbad
  rw [hframe]
  exact ⟨hscan, rfl, rfl, rfl, rfl, rfl, rfl, rfl, rfl, rfl, rfl, rfl, rfl⟩

/-! ## The number of events -/

theorem statusOwed_length_le (updated : Bool) (ts : Timestamp) (link : Link) :
    (statusOwed updated ts link).length ≤ 1 := by
  cases updated <;> simp [statusOwed]

theorem Emits.four_or_length_le {i : Instr} {s t : State} {new : List OutEvent} (h : Emits s t i new) :
    i = .scan ∧ new = [.dbgMissedPulse, .trigger, .syncTs t.curTs, .status t.curTs .active] ∨ new.length ≤ 3 := by
  cases h with
  | nothing => exact .inr (by simp)
  | skip n => exact .inr (by simp)
  | lost => exact .inr (by simp)
  | pulse => exact .inr (by simp)
  | ended updated ts link => exact .inr ((statusOwed_length_le updated ts link).trans (by decide))
  | accepted =>
    obtain hall | hle := acceptEvents_cases t.curTs s
    · exact .inl ⟨rfl, by rw [hall]; rfl⟩
    · exact .inr (by rw [List.length_append]; exact Nat.succ_le_succ hle)
  | rejected e =>
    have hle := statusOwed_length_le s.updated s.curTs s.link
    exact .inr (by rw [List.length_cons]; omega)

/-- Settles O58: every other cause emits three events at most. -/
theorem atMostFourEventsAnOperation : Obligations.AtMostFourEventsAnOperation := by
  intro i s t h
  obtain ⟨new, htrace, hemits⟩ := exec_emits h
  refine ⟨new, htrace, ?_⟩
  obtain ⟨hscan, hnew⟩ | hle := hemits.four_or_length_le
  · exact ⟨hnew ▸ le_refl 4, fun _ => ⟨hscan, hnew⟩⟩
  · exact ⟨hle.trans (by decide), fun hfour => absurd hfour (by omega)⟩

end Sys2Proof.Machine
end

section
/-! PROOFS. RESET (70_reset_and_hazards R210): the state it leaves, element by element. -/

namespace Sys2Proof.Machine

/-- RESET leaves the one reset state of R210 inside the block, and what 10_state R33 puts outside the block as it was. -/
theorem exec_reset (s : State) :
    exec .reset s = .next { State.reset with params := s.params, input := s.input, trace := s.trace } := rfl

/-- Settles O10: both memories are empty after RESET and so read as 0 everywhere; the other elements are the fields of
`State.reset`. -/
theorem resetGivesEveryElementItsValue : Obligations.ResetGivesEveryElementItsValue := by
  refine ⟨decodeEvent_eventWord 7, fun s => ⟨_, exec_reset s, ?buf, ?pkt, ?registers⟩⟩
  case buf => exact Memory.read_nil
  case pkt => exact Memory.read_nil
  case registers =>
    exact ⟨rfl, rfl, rfl, rfl, rfl, rfl, rfl, rfl, rfl, rfl, rfl, rfl, rfl, rfl, rfl, rfl, rfl, rfl, rfl⟩

end Sys2Proof.Machine
end
